-- ==== Sys2Proof/Word.lean ====
section
/-! DEFINITION. The word types of the hardware (spec 10_state.md R20, 00_scope.md R6): every quantity is
unsigned and wraps at its width (R8, R163). -/

namespace Sys2Proof

/-- 8 bits: a general register, a timer, a byte of memory (R6 `REG_WIDTH`, `TIMER_WIDTH`; R25). -/
abbrev Byte := BitVec 8

/-- 16 bits: an instruction word (R80), the index register (R23), the program counter (R24), a call-stack
entry (R26). -/
abbrev Word := BitVec 16

/-- The number of a general register, V0 to VF (R21). -/
abbrev RegIdx := Fin 16

/-- The flag register VF is V[15] (R22). -/
abbrev vF : RegIdx := 15

end Sys2Proof
end

