-- ==== Sys2Proof/Config.lean ====
section
/-! DEFINITION. What one instance of the hardware fixes: the sizes the source states (spec 00_scope.md R6),
the shape of the OPEN parameters (R6, 92_eei_decisions.md D3 to D5) and the free value (D14). -/

namespace Sys2Proof

namespace Config

/-- `PROG_BASE`: where Load writes its first byte and where pc starts (R6). -/
abbrev progBase : Nat := 0x200

/-- Bytes of the whole font: 16 glyphs of 5 bytes (R55). -/
abbrev fontSize : Nat := 80

/-- The byte that the k-th execution of `random-and` draws: a FREE VALUE (R162, D14), constrained by nothing.
It has no body, so no proof can know or choose a value of it; `State.draws` is the counter it is applied to. -/
opaque randomByte : Nat → Byte

end Config

/-- The OPEN parameters of R6, "a named parameter the model takes as an argument": constants of one instance
of the hardware (R33 (c)), which no operation changes. A state carries them, so a claim about every state is a
claim about every instance. -/
structure Params where
  /-- `STACK_DEPTH`: the capacity of the call stack; `none` is the unbounded stack that D3 also allows. -/
  stackDepth : Option Nat
  /-- `FONT_BASE`: the address of the first byte of glyph 0 (R56, D4). -/
  fontBase : Nat
  /-- `FONT_DATA`: the glyph bytes copied into memory at reset (R57, D5). -/
  fontData : List Byte
deriving DecidableEq, Repr

end Sys2Proof
end

