-- ==== Sys2Proof/Syntax.lean ====
section
/-! DEFINITION. The instructions: one constructor for each of the 34 rows of spec 30_encoding.md R86
(spec/opcode_table.json). Operands have the types R82 gives them: `x` and `y` are register numbers 0 to 15,
`n` a count 0 to 15, `nn` an 8-bit immediate, `nnn` a 12-bit address. -/

namespace Sys2Proof

/-- One instruction. A constructor is the row's mnemonic in camel case, with `ret` for `return`, and `…Reg`
on the five operations whose names Lean or Mathlib uses (`orReg`, `andReg`, `xorReg`, `addReg`, `subReg`). -/
inductive Instr where
  /-- 00E0 `clear-screen` (R191). -/
  | clearScreen
  /-- 00EE `return` (R133). -/
  | ret
  /-- 1NNN `jump nnn` (R131). -/
  | jump (nnn : BitVec 12)
  /-- 2NNN `call nnn` (R132). -/
  | call (nnn : BitVec 12)
  /-- 3XNN `skip-eq-imm Vx, nn` (R141). -/
  | skipEqImm (x : RegIdx) (nn : Byte)
  /-- 4XNN `skip-ne-imm Vx, nn` (R142). -/
  | skipNeImm (x : RegIdx) (nn : Byte)
  /-- 5XY0 `skip-eq-reg Vx, Vy` (R143). -/
  | skipEqReg (x y : RegIdx)
  /-- 6XNN `load-imm Vx, nn` (R151). -/
  | loadImm (x : RegIdx) (nn : Byte)
  /-- 7XNN `add-imm Vx, nn` (R152). -/
  | addImm (x : RegIdx) (nn : Byte)
  /-- 8XY0 `move Vx, Vy` (R153). -/
  | move (x y : RegIdx)
  /-- 8XY1 `or Vx, Vy` (R154). -/
  | orReg (x y : RegIdx)
  /-- 8XY2 `and Vx, Vy` (R155). -/
  | andReg (x y : RegIdx)
  /-- 8XY3 `xor Vx, Vy` (R156). -/
  | xorReg (x y : RegIdx)
  /-- 8XY4 `add Vx, Vy` (R157). -/
  | addReg (x y : RegIdx)
  /-- 8XY5 `sub Vx, Vy` (R158). -/
  | subReg (x y : RegIdx)
  /-- 8XY6 `shift-right Vx` (R159); y is decoded and ignored. -/
  | shiftRight (x y : RegIdx)
  /-- 8XY7 `sub-reverse Vx, Vy` (R160). -/
  | subReverse (x y : RegIdx)
  /-- 8XYE `shift-left Vx` (R161); y is decoded and ignored. -/
  | shiftLeft (x y : RegIdx)
  /-- 9XY0 `skip-ne-reg Vx, Vy` (R144). -/
  | skipNeReg (x y : RegIdx)
  /-- ANNN `load-index nnn` (R171). -/
  | loadIndex (nnn : BitVec 12)
  /-- BNNN `jump-offset nnn` (R134). -/
  | jumpOffset (nnn : BitVec 12)
  /-- CXNN `random-and Vx, nn` (R162). -/
  | randomAnd (x : RegIdx) (nn : Byte)
  /-- DXYN `draw-sprite Vx, Vy, n` (R192). -/
  | drawSprite (x y n : Fin 16)
  /-- EX9E `skip-if-pressed Vx` (R201). -/
  | skipIfPressed (x : RegIdx)
  /-- EXA1 `skip-if-not-pressed Vx` (R202). -/
  | skipIfNotPressed (x : RegIdx)
  /-- FX07 `read-delay Vx` (R204). -/
  | readDelay (x : RegIdx)
  /-- FX0A `await-key Vx` (R203). -/
  | awaitKey (x : RegIdx)
  /-- FX15 `set-delay Vx` (R205). -/
  | setDelay (x : RegIdx)
  /-- FX18 `set-sound Vx` (R206). -/
  | setSound (x : RegIdx)
  /-- FX1E `add-to-index Vx` (R172). -/
  | addToIndex (x : RegIdx)
  /-- FX29 `font-address Vx` (R173). -/
  | fontAddress (x : RegIdx)
  /-- FX33 `bcd-store Vx` (R174). -/
  | bcdStore (x : RegIdx)
  /-- FX55 `register-dump Vx` (R175); x is the last register's number, not an operand's. -/
  | registerDump (x : RegIdx)
  /-- FX65 `register-load Vx` (R176); x is the last register's number, not an operand's. -/
  | registerLoad (x : RegIdx)
deriving DecidableEq, Repr

/-- The six formats of R81. -/
inductive Format where
  | fixed | nnn | xnn | xy | xyn | x
deriving DecidableEq, Repr

/-- The operand fields of an instruction as the numbers an assembler line gives (R90); a field the format
does not have is 0. -/
structure Fields where
  x : Nat := 0
  y : Nat := 0
  n : Nat := 0
  nn : Nat := 0
  nnn : Nat := 0
deriving DecidableEq, Repr

end Sys2Proof
end

