-- ==== Sys2Proof/WellFormed.lean ====
section
/-! DEFINITION. What is well formed. Operand fields must be in range for their format (spec 30_encoding.md R82,
R90), and the OPEN parameters must meet the constraints of 00_scope.md R6. The types of `Instr` already keep
every operand in range, so the field checks bite on raw `Fields`, the numbers of an assembler line. -/

namespace Sys2Proof

/-- R90: "must fit its field (n 0 to 15, nn 0 to 255, nnn 0 to 4095)"; a register is V0 to VF; a field that
the format lacks is 0 (R81). -/
def Format.admits : Format → Fields → Bool
  | .fixed, f => f.x == 0 && f.y == 0 && f.n == 0 && f.nn == 0 && f.nnn == 0
  | .nnn, f => f.x == 0 && f.y == 0 && f.n == 0 && f.nn == 0 && decide (f.nnn ≤ 4095)
  | .xnn, f => decide (f.x ≤ 15) && f.y == 0 && f.n == 0 && decide (f.nn ≤ 255) && f.nnn == 0
  | .xy, f => decide (f.x ≤ 15) && decide (f.y ≤ 15) && f.n == 0 && f.nn == 0 && f.nnn == 0
  | .xyn, f => decide (f.x ≤ 15) && decide (f.y ≤ 15) && decide (f.n ≤ 15) && f.nn == 0 && f.nnn == 0
  | .x, f => decide (f.x ≤ 15) && f.y == 0 && f.n == 0 && f.nn == 0 && f.nnn == 0

/-- The format column of R86. -/
def Instr.format : Instr → Format
  | .clearScreen | .ret => .fixed
  | .jump _ | .call _ | .loadIndex _ | .jumpOffset _ => .nnn
  | .skipEqImm _ _ | .skipNeImm _ _ | .loadImm _ _ | .addImm _ _ | .randomAnd _ _ => .xnn
  | .skipEqReg _ _ | .skipNeReg _ _ | .move _ _ | .orReg _ _ | .andReg _ _ | .xorReg _ _ | .addReg _ _
  | .subReg _ _ | .shiftRight _ _ | .subReverse _ _ | .shiftLeft _ _ => .xy
  | .drawSprite _ _ _ => .xyn
  | .skipIfPressed _ | .skipIfNotPressed _ | .readDelay _ | .awaitKey _ | .setDelay _ | .setSound _
  | .addToIndex _ | .fontAddress _ | .bcdStore _ | .registerDump _ | .registerLoad _ => .x

/-- The operand fields of an instruction, as numbers. -/
def Instr.fields : Instr → Fields
  | .clearScreen | .ret => {}
  | .jump nnn | .call nnn | .loadIndex nnn | .jumpOffset nnn => { nnn := nnn.toNat }
  | .skipEqImm x nn | .skipNeImm x nn | .loadImm x nn | .addImm x nn | .randomAnd x nn =>
    { x := x.val, nn := nn.toNat }
  | .skipEqReg x y | .skipNeReg x y | .move x y | .orReg x y | .andReg x y | .xorReg x y | .addReg x y
  | .subReg x y | .shiftRight x y | .subReverse x y | .shiftLeft x y => { x := x.val, y := y.val }
  | .drawSprite x y n => { x := x.val, y := y.val, n := n.val }
  | .skipIfPressed x | .skipIfNotPressed x | .readDelay x | .awaitKey x | .setDelay x | .setSound x
  | .addToIndex x | .fontAddress x | .bcdStore x | .registerDump x | .registerLoad x => { x := x.val }

/-- An instruction is well formed when its fields fit its format (R94: "with in-range fields"). -/
def Instr.wf (i : Instr) : Bool := i.format.admits i.fields

/-- The constraints of R6 and of the table that closes 92_eei_decisions.md: STACK_DEPTH at least 1 or
unbounded, FONT_BASE + 80 <= 0x200, FONT_DATA exactly 80 bytes. -/
def Params.wf (p : Params) : Bool :=
  (match p.stackDepth with
    | none => true
    | some d => decide (1 ≤ d)) &&
  decide (p.fontBase + Config.fontSize ≤ Config.progBase) && p.fontData.length == Config.fontSize

end Sys2Proof
end

