-- ==== Sys2Proof/Decode.lean ====
section
/-! DEFINITION. The decoder of spec 30_encoding.md R89, total on every word and on any bytes, and the encoder
of R94. -/

namespace Sys2Proof

/-- Why bytes are no instruction. -/
inductive DecodeError where
  /-- The word matches no row of R86: an unknown opcode (R87). Executing it is not a fault (R115). -/
  | unknownOpcode (w : Word)
  /-- Fewer than the two bytes of an instruction (R80). -/
  | truncated
deriving DecidableEq, Repr

/-- `op = w[15:12]` (R81). -/
def opField (w : Word) : BitVec 4 := w.extractLsb' 12 4
/-- `x = w[11:8]` (R13). -/
def xField (w : Word) : RegIdx := (w.extractLsb' 8 4).toFin
/-- `y = w[7:4]` (R13). -/
def yField (w : Word) : RegIdx := (w.extractLsb' 4 4).toFin
/-- `n = w[3:0]` (R13). -/
def nField (w : Word) : Fin 16 := (w.extractLsb' 0 4).toFin
/-- `nn = w[7:0]` (R13). -/
def nnField (w : Word) : Byte := w.extractLsb' 0 8
/-- `nnn = w[11:0]` (R13). -/
def nnnField (w : Word) : BitVec 12 := w.extractLsb' 0 12

/-- Families 5 and 9: the trailing nibble must be 0 (R84 (b)). -/
def selectZero (w : Word) (i : Instr) : Except DecodeError Instr :=
  if w.extractLsb' 0 4 = 0x0#4 then .ok i else .error (.unknownOpcode w)

/-- Family 0: two fixed words (R84 (a)). -/
def decodeFamily0 (w : Word) : Except DecodeError Instr :=
  if w = 0x00E0#16 then .ok .clearScreen
  else if w = 0x00EE#16 then .ok .ret
  else .error (.unknownOpcode w)

/-- Family 8: the trailing nibble selects (R84 (c)). -/
def decodeFamily8 (w : Word) : Except DecodeError Instr :=
  match w.extractLsb' 0 4 with
  | 0x0#4 => .ok (.move (xField w) (yField w))
  | 0x1#4 => .ok (.orReg (xField w) (yField w))
  | 0x2#4 => .ok (.andReg (xField w) (yField w))
  | 0x3#4 => .ok (.xorReg (xField w) (yField w))
  | 0x4#4 => .ok (.addReg (xField w) (yField w))
  | 0x5#4 => .ok (.subReg (xField w) (yField w))
  | 0x6#4 => .ok (.shiftRight (xField w) (yField w))
  | 0x7#4 => .ok (.subReverse (xField w) (yField w))
  | 0xE#4 => .ok (.shiftLeft (xField w) (yField w))
  | _ => .error (.unknownOpcode w)

/-- Family E: the trailing byte selects (R84 (d)). -/
def decodeFamilyE (w : Word) : Except DecodeError Instr :=
  match nnField w with
  | 0x9E#8 => .ok (.skipIfPressed (xField w))
  | 0xA1#8 => .ok (.skipIfNotPressed (xField w))
  | _ => .error (.unknownOpcode w)

/-- Family F: the trailing byte selects (R84 (d)). -/
def decodeFamilyF (w : Word) : Except DecodeError Instr :=
  match nnField w with
  | 0x07#8 => .ok (.readDelay (xField w))
  | 0x0A#8 => .ok (.awaitKey (xField w))
  | 0x15#8 => .ok (.setDelay (xField w))
  | 0x18#8 => .ok (.setSound (xField w))
  | 0x1E#8 => .ok (.addToIndex (xField w))
  | 0x29#8 => .ok (.fontAddress (xField w))
  | 0x33#8 => .ok (.bcdStore (xField w))
  | 0x55#8 => .ok (.registerDump (xField w))
  | 0x65#8 => .ok (.registerLoad (xField w))
  | _ => .error (.unknownOpcode w)

/-- `Decode(w)` of R89. DESIGN CHOICE (the spec's own, D12; log 14): every fixed bit must match. -/
def decodeWord (w : Word) : Except DecodeError Instr :=
  match opField w with
  | 0x0#4 => decodeFamily0 w
  | 0x1#4 => .ok (.jump (nnnField w))
  | 0x2#4 => .ok (.call (nnnField w))
  | 0x3#4 => .ok (.skipEqImm (xField w) (nnField w))
  | 0x4#4 => .ok (.skipNeImm (xField w) (nnField w))
  | 0x5#4 => selectZero w (.skipEqReg (xField w) (yField w))
  | 0x6#4 => .ok (.loadImm (xField w) (nnField w))
  | 0x7#4 => .ok (.addImm (xField w) (nnField w))
  | 0x8#4 => decodeFamily8 w
  | 0x9#4 => selectZero w (.skipNeReg (xField w) (yField w))
  | 0xA#4 => .ok (.loadIndex (nnnField w))
  | 0xB#4 => .ok (.jumpOffset (nnnField w))
  | 0xC#4 => .ok (.randomAnd (xField w) (nnField w))
  | 0xD#4 => .ok (.drawSprite (xField w) (yField w) (nField w))
  | 0xE#4 => decodeFamilyE w
  | _ => decodeFamilyF w

/-- The word of two bytes, most-significant byte first (R51, R80). -/
def wordOfBytes (hi lo : Byte) : Word := hi ++ lo

/-- Decode the first instruction of a byte sequence: the instruction and the bytes after it (R80: always 2). -/
def decodeBytes : List Byte → Except DecodeError (Instr × List Byte)
  | hi :: lo :: rest =>
    match decodeWord (wordOfBytes hi lo) with
    | .ok i => .ok (i, rest)
    | .error e => .error e
  | _ => .error .truncated

/-- The `match` column of R86. -/
def Instr.matchBits : Instr → Word
  | .clearScreen => 0x00E0#16
  | .ret => 0x00EE#16
  | .jump _ => 0x1000#16
  | .call _ => 0x2000#16
  | .skipEqImm _ _ => 0x3000#16
  | .skipNeImm _ _ => 0x4000#16
  | .skipEqReg _ _ => 0x5000#16
  | .loadImm _ _ => 0x6000#16
  | .addImm _ _ => 0x7000#16
  | .move _ _ => 0x8000#16
  | .orReg _ _ => 0x8001#16
  | .andReg _ _ => 0x8002#16
  | .xorReg _ _ => 0x8003#16
  | .addReg _ _ => 0x8004#16
  | .subReg _ _ => 0x8005#16
  | .shiftRight _ _ => 0x8006#16
  | .subReverse _ _ => 0x8007#16
  | .shiftLeft _ _ => 0x800E#16
  | .skipNeReg _ _ => 0x9000#16
  | .loadIndex _ => 0xA000#16
  | .jumpOffset _ => 0xB000#16
  | .randomAnd _ _ => 0xC000#16
  | .drawSprite _ _ _ => 0xD000#16
  | .skipIfPressed _ => 0xE09E#16
  | .skipIfNotPressed _ => 0xE0A1#16
  | .readDelay _ => 0xF007#16
  | .awaitKey _ => 0xF00A#16
  | .setDelay _ => 0xF015#16
  | .setSound _ => 0xF018#16
  | .addToIndex _ => 0xF01E#16
  | .fontAddress _ => 0xF029#16
  | .bcdStore _ => 0xF033#16
  | .registerDump _ => 0xF055#16
  | .registerLoad _ => 0xF065#16

/-- The masks by format (R85). -/
def Format.mask : Format → Word
  | .fixed => 0xFFFF#16
  | .nnn | .xnn | .xyn => 0xF000#16
  | .xy => 0xF00F#16
  | .x => 0xF0FF#16

/-- The fields "at their positions, `x << 8`, `y << 4`, `n`, `nn`, `nnn`" (R94). -/
def Fields.place (f : Fields) : Word :=
  BitVec.ofNat 16 f.x <<< 8 ||| BitVec.ofNat 16 f.y <<< 4 ||| BitVec.ofNat 16 f.n |||
    BitVec.ofNat 16 f.nn ||| BitVec.ofNat 16 f.nnn

/-- `Encode(i)` (R94): the row's match value ORed with the fields. -/
def encode (i : Instr) : Word := i.matchBits ||| i.fields.place

/-- The high and the low byte of a word. -/
def highByte (w : Word) : Byte := w.extractLsb' 8 8
/-- The low byte of a word. -/
def lowByte (w : Word) : Byte := w.extractLsb' 0 8

/-- A word as it is stored: most-significant byte at the lower address (R51). -/
def bytesOfWord (w : Word) : List Byte := [highByte w, lowByte w]

/-- The two bytes of an instruction as they are stored. -/
def encodeBytes (i : Instr) : List Byte := bytesOfWord (encode i)

/-- The word whose low `nbits` bits are those of `w` and whose other bits are 0. -/
def tableWord (nbits w : Nat) : Word := BitVec.ofNat 16 (w % 2 ^ nbits)

/-- What the decoder reads from an instruction whose bits, numbered as spec/opcode_table.json numbers them, are
the low `nbits` bits of `w`, laid out in memory order. -/
def decodeTableWord (nbits w : Nat) : Option Instr :=
  match decodeBytes (bytesOfWord (tableWord nbits w)) with
  | .ok (i, _) => some i
  | .error _ => none

end Sys2Proof
end

