-- ==== Sys2Proof/Machine/Parameters.lean ====
section
/-! DEFINITION. The default values of the OPEN parameters (spec 00_scope.md R6) and the reset contents of
memory (10_state.md R37, 20_memory.md R55), which is what an address that memory does not list reads as. -/

namespace Sys2Proof.Machine

/-- The default FONT_DATA: the table of R57, 16 glyphs of five rows. PRESUMED (the spec marks the table
"from general knowledge, not in source"; log 4). -/
def defaultFontData : List Byte :=
  [0xF0#8, 0x90#8, 0x90#8, 0x90#8, 0xF0#8] ++ [0x20#8, 0x60#8, 0x20#8, 0x20#8, 0x70#8] ++
  [0xF0#8, 0x10#8, 0xF0#8, 0x80#8, 0xF0#8] ++ [0xF0#8, 0x10#8, 0xF0#8, 0x10#8, 0xF0#8] ++
  [0x90#8, 0x90#8, 0xF0#8, 0x10#8, 0x10#8] ++ [0xF0#8, 0x80#8, 0xF0#8, 0x10#8, 0xF0#8] ++
  [0xF0#8, 0x80#8, 0xF0#8, 0x90#8, 0xF0#8] ++ [0xF0#8, 0x10#8, 0x20#8, 0x40#8, 0x40#8] ++
  [0xF0#8, 0x90#8, 0xF0#8, 0x90#8, 0xF0#8] ++ [0xF0#8, 0x90#8, 0xF0#8, 0x10#8, 0xF0#8] ++
  [0xF0#8, 0x90#8, 0xF0#8, 0x90#8, 0x90#8] ++ [0xE0#8, 0x90#8, 0xE0#8, 0x90#8, 0xE0#8] ++
  [0xF0#8, 0x80#8, 0x80#8, 0x80#8, 0xF0#8] ++ [0xE0#8, 0x90#8, 0x90#8, 0x90#8, 0xE0#8] ++
  [0xF0#8, 0x80#8, 0xF0#8, 0x80#8, 0xF0#8] ++ [0xF0#8, 0x80#8, 0xF0#8, 0x80#8, 0x80#8]

/-- The defaults of R6: STACK_DEPTH 16 (PRESUMED, log 2), FONT_BASE 0x000 (DESIGN CHOICE, the spec's D4,
log 3), FONT_DATA the table of R57 (PRESUMED, log 4). -/
def defaultParams : Params where
  stackDepth := some 16
  fontBase := 0x000
  fontData := defaultFontData

/-- What memory holds at address `a` after reset (R37): the font at FONT_BASE to FONT_BASE + 79, zero
elsewhere. It is what an address reads as until something is written there. -/
def resetByte (p : Params) (a : Nat) : Byte :=
  if p.fontBase ≤ a ∧ a < p.fontBase + 80 then p.fontData.getD (a - p.fontBase) 0 else 0

/-- Whether the call stack can take one more entry when it holds `sp` of them (R29: SP < STACK_DEPTH;
always, where STACK_DEPTH is unbounded, D3). -/
def stackHasRoom (p : Params) (sp : Nat) : Bool :=
  match p.stackDepth with
  | none => true
  | some d => decide (sp < d)

/-- `0 <= SP <= STACK_DEPTH` (R38 (b)). -/
def stackFits (p : Params) (sp : Nat) : Bool :=
  match p.stackDepth with
  | none => true
  | some d => decide (sp ≤ d)

end Sys2Proof.Machine
end

