-- ==== Sys2Proof/Machine/State.lean ====
section
/-! DEFINITION. The state of the hardware (spec 10_state.md R20), its reset value (R37), and the ways a Step
can stop (60_exceptions.md R241). -/

namespace Sys2Proof.Machine

/-- Memory: the cells that differ from the reset contents, addresses strictly rising (R25). -/
abbrev Memory := List Host.Cell

/-- One row of the framebuffer: 64 cells, column 0 first (R30). -/
abbrev FbRow := Vector Bool 64

/-- The framebuffer: 32 rows, row 0 first; `fb[y][x]` is `FB[y][x]` (R30). -/
abbrev Framebuffer := Vector FbRow 32

/-- The canonical form of memory: addresses below 4096 and strictly rising, no cell equal to what its address
reads as when it is not listed. Equal memories are then equal lists. -/
def Memory.wf (p : Params) : Memory → Bool
  | [] => true
  | (a, b) :: rest =>
    decide (a < 4096) && b != resetByte p a && rest.all (fun c => decide (a < c.1)) && Memory.wf p rest

/-- The state of the hardware: the tuple of R20, and two fields of the model's own, `draws` and `params`. -/
structure State where
  /-- `MEM`, 4096 bytes (R25). -/
  mem : Memory
  /-- `V[0]` to `V[15]`; `V[15]` is VF (R21, R22). -/
  v : Vector Byte 16
  /-- `I`, the index register (R23). -/
  idx : Word
  /-- `pc`, the program counter (R24). -/
  pc : Word
  /-- The live entries of the call stack, the most recent first (R26): `SP` is the length, `STK[k]` for k below
  SP the k-th from the end. Entries at SP and above "have no meaning and are never read", so none is held. -/
  stack : List Word
  /-- `DT`, the delay timer (R27). -/
  dt : Byte
  /-- `ST`, the sound timer (R28). -/
  st : Byte
  /-- `FB`, the framebuffer (R30). -/
  fb : Framebuffer
  /-- `DIRTY`, the dirty flag (R31). -/
  dirty : Bool
  /-- `KEY[0]` to `KEY[15]`, true for pressed (R32). -/
  keys : Vector Bool 16
  /-- The MODEL'S OWN: how many random bytes have been drawn. `Config.randomByte draws` is the next draw, a
  free value (R162, D14; log 5). -/
  draws : Nat
  /-- The MODEL'S OWN: the OPEN parameters of this instance, which no operation changes (R6, R33 (c); log 1). -/
  params : Params
deriving DecidableEq, Repr

/-- The fatal Step causes of R241. A Step that faults commits nothing (R11, R117, R252; log 6): the state after
it is the state before it, and the host may go on from there (`stepState`). -/
inductive Fault where
  /-- `return` with an empty call stack (R242). Raised by 00EE. Safe: the spec gives the fault. -/
  | stackUnderflow
  /-- A data access that would reach address 4096 or beyond (R243). Raised by DXYN, FX33, FX55, FX65. Safe:
  the spec gives the fault. -/
  | memOutOfBounds
  /-- A Step with pc above 4094 (R244, D2). Raised by the fetch. Safe: the hardware may do no less. -/
  | fetchOutOfBounds
  /-- `call` with a full call stack (R245, D3). Raised by 2NNN. Safe: the hardware may do no less. -/
  | stackOverflow
  /-- A key index above 15 (R246, D7). Raised by EX9E, EXA1. Safe: the hardware may do no less. -/
  | keyIndexRange
deriving DecidableEq, Repr

/-- Why the model gives an instruction no meaning. -/
inductive Refusal where
  /-- The instruction has no meaning in the model yet. Raised by an arm of `exec` only, and no arm of this model
  raises it. Safe: the model stops. -/
  | notModelled (mnemonic : String)
deriving DecidableEq, Repr

/-- What a Step, and the handler of an instruction, answers. -/
abbrev Result := Host.Outcome State Fault Refusal

/-- The state after reset of an instance with parameters `p` (R37): memory lists nothing, so every address
reads as its reset contents. The keys are released: DESIGN CHOICE (the spec's own, D15; log 15). -/
def State.resetWith (p : Params) : State where
  mem := []
  v := Vector.replicate 16 0
  idx := 0
  pc := 0x200
  stack := []
  dt := 0
  st := 0
  fb := Vector.replicate 32 (Vector.replicate 64 false)
  dirty := false
  keys := Vector.replicate 16 false
  draws := 0
  params := p

/-- The state after reset, with the default parameters. -/
def State.reset : State := State.resetWith defaultParams

end Sys2Proof.Machine
end

