-- ==== Sys2Proof/Machine/Ops.lean ====
section
/-! DEFINITION. The named operations over registers, memory, the call stack, the framebuffer, the timers and the
keys, and raising a fault. Every instruction's meaning is written over these. -/

namespace Sys2Proof.Machine

/-! ### Faults -/

/-- `raise Fault(cause)` (R11, R252), the one way this hardware takes an exception: nothing is saved, no mode
changes, control goes nowhere, and the Step answers the cause with the state as it was. There is no return from
it (R253): the next Step fetches the same instruction again. -/
def raiseFault (cause : Fault) : Result := .fault cause

/-! ### Registers -/

/-- `V[x]` (R21). -/
def State.reg (s : State) (x : RegIdx) : Byte := s.v[x.val]

/-- `V[x] <- b` (R21). -/
def State.setReg (s : State) (x : RegIdx) (b : Byte) : State := { s with v := s.v.set x.val b }

/-- Write all sixteen registers at once. -/
def State.setRegs (s : State) (v : Vector Byte 16) : State := { s with v := v }

/-- `I <- a` (R23). -/
def State.setIdx (s : State) (a : Word) : State := { s with idx := a }

/-- `pc <- target` (R24). -/
def State.setPc (s : State) (target : Word) : State := { s with pc := target }

/-- `pc <- pc + 2`, modulo 65536 (R24, R113, D27). -/
def State.advance (s : State) : State := s.setPc (s.pc + 2)

/-- A skip (R140): pc + 4 if the condition holds, else pc + 2. -/
def State.skipIf (s : State) (condition : Bool) : State := s.setPc (if condition then s.pc + 4 else s.pc + 2)

/-- The first bytes of `bytes`, into `V[k]`, `V[k+1]`, … (R176). -/
def loadRegs (v : Vector Byte 16) (k : Nat) : List Byte → Vector Byte 16
  | [] => v
  | b :: bs => loadRegs (v.setIfInBounds k b) (k + 1) bs

/-! ### Memory -/

/-- `MEM[a]` in the list form: the listed cell, else the reset contents (R54, R55). -/
def memRead (p : Params) : Memory → Nat → Byte
  | [], a => resetByte p a
  | (c, b) :: rest, a => if c = a then b else memRead p rest a

/-- A cell in front of a list, unless it says what its address reads as anyway. -/
def memCons (p : Params) (a : Nat) (b : Byte) (m : Memory) : Memory :=
  if b = resetByte p a then m else (a, b) :: m

/-- `MEM[a] <- b` in the list form, keeping the canonical form. -/
def memWrite (p : Params) (a : Nat) (b : Byte) : Memory → Memory
  | [] => memCons p a b []
  | (c, d) :: rest =>
    if a < c then memCons p a b ((c, d) :: rest)
    else if a = c then memCons p a b rest
    else (c, d) :: memWrite p a b rest

/-- Bytes at `a`, `a + 1`, …, lowest address first (R53). -/
def memWriteBytes (p : Params) (a : Nat) : List Byte → Memory → Memory
  | [], m => m
  | b :: bs, m => memWriteBytes p (a + 1) bs (memWrite p a b m)

/-- The `count` bytes from `a` on, lowest address first (R53). -/
def memReadBytes (p : Params) (m : Memory) (a : Nat) : Nat → List Byte
  | 0 => []
  | count + 1 => memRead p m a :: memReadBytes p m (a + 1) count

/-- `MemRead(a, 1)` (R10). Total: every rule that uses it checks its bounds first. -/
def State.readByte (s : State) (a : Nat) : Byte := memRead s.params s.mem a

/-- The `count` bytes from `a` on. -/
def State.readBytes (s : State) (a count : Nat) : List Byte := memReadBytes s.params s.mem a count

/-- `MemWrite(a + k, 1, bytes[k])` for each k (R10). -/
def State.writeBytes (s : State) (a : Nat) (bytes : List Byte) : State :=
  { s with mem := memWriteBytes s.params a bytes s.mem }

/-- The bounds rule for a data access of `count` bytes from `a` on (R58, R243): the last of them at most 4095;
an access of no byte is legal wherever it starts (R193 (c)). -/
def accessLegal (a count : Nat) : Bool := decide (count = 0 ∨ a + count - 1 ≤ 4095)

/-- Run the rest of an instruction only if its whole access is legal (R58, R170, R243): check first, then access.
DESIGN CHOICE (the spec's own, D22; log 19). -/
def checkedAccess (a count : Nat) (s' : State) : Result :=
  if accessLegal a count then .next s' else raiseFault .memOutOfBounds

/-- `w = MEM[pc] ++ MEM[pc+1]` (R51, R111). -/
def State.fetchWord (s : State) : Word := wordOfBytes (s.readByte s.pc.toNat) (s.readByte (s.pc.toNat + 1))

/-- The fetch is valid only for pc in [0, 4094] (R111). -/
def State.fetchLegal (s : State) : Bool := decide (s.pc.toNat ≤ 4094)

/-! ### Call stack -/

/-- `SP`, the number of entries (R26). -/
def State.sp (s : State) : Nat := s.stack.length

/-- `STK[k]`, entry k of the live stack, 0 the oldest (R9, R26). -/
def State.stk (s : State) (k : Nat) : Option Word := s.stack.reverse[k]?

/-- `Push(v)` on a stack that has room (R29). -/
def State.push (s : State) (a : Word) : State := { s with stack := a :: s.stack }

/-- The state with the call stack replaced; `Pop()` leaves the tail (R29). -/
def State.setStack (s : State) (stack : List Word) : State := { s with stack := stack }

/-! ### Timers -/

/-- `DT <- b` (R27). -/
def State.setDt (s : State) (b : Byte) : State := { s with dt := b }

/-- `ST <- b` (R28). -/
def State.setSt (s : State) (b : Byte) : State := { s with st := b }

/-- One less, and 0 stays 0 (R114: "non-negative saturating"). -/
def countDown (b : Byte) : Byte := if b = 0 then 0 else b - 1

/-- The end of every Step that does not fault (R114): each timer counts down. -/
def State.tick (s : State) : State := { s with dt := countDown s.dt, st := countDown s.st }

/-! ### The parts of a Step around the handler -/

/-- A Step whose word is an unknown opcode (R115): pc + 2 and nothing else; its report is a status
(`stepStatus`). -/
def execUnknown (s : State) : Result := .next s.advance

/-- Line 5 of R110: after a handler that did not fault, the timers count down; a fault discards the Step. -/
def finishStep : Result → Result
  | .next s => .next s.tick
  | .fault cause => .fault cause
  | .refused r => .refused r

/-! ### Framebuffer and dirty flag -/

/-- `FB[row][col]` (R30); false outside the grid, where there is no cell. -/
def Framebuffer.cell (fb : Framebuffer) (row col : Nat) : Bool :=
  if h : row < 32 ∧ col < 64 then (fb[row]'h.1)[col]'h.2 else false

/-- `FB[row][col] <- FB[row][col] ^ 1` (R192); nothing outside the grid: the pixel is clipped (R193 (a), D9). -/
def Framebuffer.flip (fb : Framebuffer) (row col : Nat) : Framebuffer :=
  if h : row < 32 ∧ col < 64 then
    fb.set row ((fb[row]'h.1).set col (!(fb[row]'h.1)[col]'h.2) h.2) h.1
  else fb

/-- Every cell 0 (R191). -/
def Framebuffer.blank : Framebuffer := Vector.replicate 32 (Vector.replicate 64 false)

/-- The cells in the flat row-major order, element `64*y + x` being `FB[y][x]` (R30, R224, D16). -/
def Framebuffer.cells (fb : Framebuffer) : List Bool := fb.toList.flatMap (fun row => row.toList)

/-- Replace the framebuffer. -/
def State.setFb (s : State) (fb : Framebuffer) : State := { s with fb := fb }

/-- `DIRTY <- b` (R31). -/
def State.setDirty (s : State) (b : Bool) : State := { s with dirty := b }

/-- The framebuffer under the sprite, and whether a drawn pixel has met a lit cell so far. -/
structure Canvas where
  fb : Framebuffer
  hit : Bool
deriving DecidableEq, Repr

/-- One set sprite bit at the cell (row, col) (R192): a collision if the cell is 1, then exclusive-or with 1. Off
the grid it does neither (R193 (a)). -/
def Canvas.plot (c : Canvas) (row col : Nat) : Canvas where
  fb := Framebuffer.flip c.fb row col
  hit := c.hit || Framebuffer.cell c.fb row col

/-- One sprite byte with its bit 7 at column `col` (R192: bit 7 - k lands on column col + k), k from 0 to 7. -/
def Canvas.drawRow (c : Canvas) (row col : Nat) (b : Byte) : Canvas :=
  (List.range 8).foldl (fun c k => if b.getLsbD (7 - k) then c.plot row (col + k) else c) c

/-- The sprite's bytes, each one row below the one before it (R192). -/
def Canvas.drawRows (c : Canvas) (row col : Nat) : List Byte → Canvas
  | [] => c
  | b :: bs => (c.drawRow row col b).drawRows (row + 1) col bs

/-! ### Keys -/

/-- `KEY[k] = 1` (R32). -/
def State.keyDown (s : State) (k : Nat) : Bool := s.keys.getD k false

/-- The least pressed key, if any (R203). DESIGN CHOICE (the spec's own, D8; log 11). -/
def State.firstKey (s : State) : Option Nat := (List.range 16).find? (fun k => s.keyDown k)

/-- `KEY[k] <- pressed` (R225). -/
def State.setKeyTo (s : State) (k : Nat) (pressed : Bool) : State := { s with keys := s.keys.setIfInBounds k pressed }

/-! ### The random draw -/

/-- The state after one more draw (R162: "drawn afresh at every execution"). -/
def State.drawn (s : State) : State := { s with draws := s.draws + 1 }

end Sys2Proof.Machine
end

