-- ==== Sys2Proof/Machine/Flags.lean ====
section
/-! DEFINITION. The values that instructions write to VF implicitly (spec 10_state.md R22), each from the operands'
values, and the order of the flag write and the result write (43_alu.md R150). -/

namespace Sys2Proof.Machine

/-- The byte 1 or 0: what an implicit write leaves in VF is always one of the two (R22). -/
def flagByte (b : Bool) : Byte := if b then 1 else 0

/-- 8XY4: the carry, 1 if a + b > 255 (R157). -/
def carryFlag (a b : Byte) : Byte := flagByte (decide (a.toNat + b.toNat > 255))

/-- 8XY5: 0 if b > a (a borrow), else 1 (R158). -/
def noBorrowFlag (a b : Byte) : Byte := if b.toNat > a.toNat then 0 else 1

/-- 8XY7: 1 if b > a, else 0; the comparison is strict (R160, U9; log 29). -/
def greaterFlag (a b : Byte) : Byte := flagByte (decide (b.toNat > a.toNat))

/-- 8XY6: the bit shifted out, bit 0 (R159). -/
def shiftedOutLow (a : Byte) : Byte := a &&& 1

/-- 8XYE: the bit shifted out, bit 7 (R161). -/
def shiftedOutHigh (a : Byte) : Byte := (a &&& 0x80) >>> 7

/-- `V[15] <- f` (R22). -/
def State.setFlag (s : State) (f : Byte) : State := s.setReg vF f

/-- The order of R150: the flag is written first, and the result, a function of the state that write leaves, second.
DESIGN CHOICE (the spec's own, D11; log 13). -/
def State.flagThen (s : State) (f : Byte) (x : RegIdx) (result : State → Byte) : State :=
  (s.setFlag f).setReg x (result (s.setFlag f))

end Sys2Proof.Machine
end

