-- ==== Sys2Proof/Machine/Operands.lean ====
section
/-! DEFINITION. The operand forms (spec 30_encoding.md R82, 44_index_memory.md R170): a register, an immediate, a
12-bit address, and the one data addressing mode, I plus an offset. -/

namespace Sys2Proof.Machine

/-- `zext_16(nnn)`: a 12-bit address written to pc or I (R82). -/
def zextAddr (nnn : BitVec 12) : Word := nnn.setWidth 16

/-- `zext_16(V[x])`: a register added to I or to an address (R134, R172). -/
def zextReg (b : Byte) : Word := b.setWidth 16

/-- `ea = I` as a natural number: the base of every data access, with no wrap (R50, R58, R170). -/
def State.base (s : State) : Nat := s.idx.toNat

/-- The address of glyph `d`: `FONT_BASE + 5 * d`, on the whole 8-bit value (R56, R173). DESIGN CHOICE for d above 15
(the spec's own, D6; log 23). -/
def glyphAddress (p : Params) (d : Byte) : Word := BitVec.ofNat 16 (p.fontBase + 5 * d.toNat)

/-- The decimal digits of a byte, hundreds first (R174). -/
def bcdDigits (b : Byte) : List Byte :=
  [BitVec.ofNat 8 (b.toNat / 100), BitVec.ofNat 8 (b.toNat / 10 % 10), BitVec.ofNat 8 (b.toNat % 10)]

/-- `V[0]` to `V[x]` in order: what FX55 stores (R175). -/
def State.regsUpTo (s : State) (x : RegIdx) : List Byte := s.v.toList.take (x.val + 1)

/-- The origin column of a sprite: `V[x] mod 64` (R192). -/
def originCol (b : Byte) : Nat := b.toNat % 64

/-- The origin row of a sprite: `V[y] mod 32` (R192). -/
def originRow (b : Byte) : Nat := b.toNat % 32

/-- A key index read from a register: the instruction faults when it exceeds 15 (R201, R202). DESIGN CHOICE (the
spec's own, D7; log 10). -/
def withKeyIndex (k : Byte) (next : State) : Result :=
  if k.toNat > 15 then raiseFault .keyIndexRange else .next next

end Sys2Proof.Machine
end

