-- ==== Sys2Proof/Machine/Alu.lean ====
section
/-! DEFINITION. Register loads and the 8-bit ALU (spec 43_alu.md). Every instruction here ends with pc + 2 and raises
no fault (R150). -/

namespace Sys2Proof.Machine

/-- 6XNN `load-imm Vx, nn` (R151). -/
def execLoadImm (x : RegIdx) (nn : Byte) (s : State) : Result := .next (s.setReg x nn).advance

/-- 7XNN `add-imm Vx, nn` (R152): modulo 256, VF untouched. -/
def execAddImm (x : RegIdx) (nn : Byte) (s : State) : Result := .next (s.setReg x (s.reg x + nn)).advance

/-- 8XY0 `move Vx, Vy` (R153). -/
def execMove (x y : RegIdx) (s : State) : Result := .next (s.setReg x (s.reg y)).advance

/-- 8XY1 `or Vx, Vy` (R154). -/
def execOr (x y : RegIdx) (s : State) : Result := .next (s.setReg x (s.reg x ||| s.reg y)).advance

/-- 8XY2 `and Vx, Vy` (R155). -/
def execAnd (x y : RegIdx) (s : State) : Result := .next (s.setReg x (s.reg x &&& s.reg y)).advance

/-- 8XY3 `xor Vx, Vy` (R156). -/
def execXor (x y : RegIdx) (s : State) : Result := .next (s.setReg x (s.reg x ^^^ s.reg y)).advance

/-- 8XY4 `add Vx, Vy` (R157): the sum is latched before VF is written. -/
def execAdd (x y : RegIdx) (s : State) : Result :=
  .next (s.flagThen (carryFlag (s.reg x) (s.reg y)) x (fun _ => s.reg x + s.reg y)).advance

/-- 8XY5 `sub Vx, Vy` (R158): the difference reads V after VF is written. -/
def execSub (x y : RegIdx) (s : State) : Result :=
  .next (s.flagThen (noBorrowFlag (s.reg x) (s.reg y)) x (fun t => t.reg x - t.reg y)).advance

/-- 8XY6 `shift-right Vx` (R159): y is ignored; the shift reads V after VF is written. -/
def execShiftRight (x _y : RegIdx) (s : State) : Result :=
  .next (s.flagThen (shiftedOutLow (s.reg x)) x (fun t => t.reg x >>> 1)).advance

/-- 8XY7 `sub-reverse Vx, Vy` (R160): the difference reads V after VF is written. -/
def execSubReverse (x y : RegIdx) (s : State) : Result :=
  .next (s.flagThen (greaterFlag (s.reg x) (s.reg y)) x (fun t => t.reg y - t.reg x)).advance

/-- 8XYE `shift-left Vx` (R161): y is ignored; the shift reads V after VF is written. -/
def execShiftLeft (x _y : RegIdx) (s : State) : Result :=
  .next (s.flagThen (shiftedOutHigh (s.reg x)) x (fun t => t.reg x <<< 1)).advance

/-- CXNN with the byte r drawn (R162). -/
def State.randomAnd (s : State) (x : RegIdx) (nn r : Byte) : State := (s.setReg x (nn &&& r)).advance

/-- CXNN `random-and Vx, nn` (R162): the draw is a free value, a fresh one each time (D14; log 5). -/
def execRandomAnd (x : RegIdx) (nn : Byte) (s : State) : Result :=
  .next (s.drawn.randomAnd x nn (Config.randomByte s.draws))

end Sys2Proof.Machine
end

