-- ==== Sys2Proof/Machine/Display.lean ====
section
/-! DEFINITION. Framebuffer instructions (spec 45_display.md). -/

namespace Sys2Proof.Machine

/-- 00E0 `clear-screen` (R191): DIRTY and VF unchanged. DESIGN CHOICE for DIRTY (the spec's own, D17; log 17). -/
def execClearScreen (s : State) : Result := .next (s.setFb Framebuffer.blank).advance

/-- What DXYN draws: the n bytes at I, from the origin that V[x] and V[y] give before VF is written (R192, R193 (f)). -/
def State.spriteCanvas (s : State) (x y n : Fin 16) : Canvas :=
  (Canvas.mk s.fb false).drawRows (originRow (s.reg y)) (originCol (s.reg x)) (s.readBytes s.base n.val)

/-- DXYN `draw-sprite Vx, Vy, n` (R192): all n bytes are checked, also those of clipped rows. DESIGN CHOICE for the
clipping and for the checked range (the spec's own, D9, D10; log 12). -/
def execDrawSprite (x y n : Fin 16) (s : State) : Result :=
  checkedAccess s.base n.val
    (((s.setFlag (flagByte (s.spriteCanvas x y n).hit)).setFb (s.spriteCanvas x y n).fb).setDirty true).advance

end Sys2Proof.Machine
end

