-- ==== Sys2Proof/Machine/Flow.lean ====
section
/-! DEFINITION. Control transfer (spec 41_flow.md): jump, call, return, jump-offset. -/

namespace Sys2Proof.Machine

/-- 1NNN `jump nnn` (R131). -/
def execJump (nnn : BitVec 12) (s : State) : Result := .next (s.setPc (zextAddr nnn))

/-- 2NNN `call nnn` (R132): push the call's own address, go to nnn; STACK_OVERFLOW when the stack is full. -/
def execCall (nnn : BitVec 12) (s : State) : Result :=
  if stackHasRoom s.params s.sp then .next ((s.push s.pc).setPc (zextAddr nnn)) else raiseFault .stackOverflow

/-- 00EE `return` (R133): pop r, go to r + 2; STACK_UNDERFLOW when the stack is empty. -/
def execRet (s : State) : Result :=
  match s.stack with
  | [] => raiseFault .stackUnderflow
  | r :: rest => .next ((s.setStack rest).setPc (r + 2))

/-- BNNN `jump-offset nnn` (R134): V0 + nnn, not reduced modulo 4096. -/
def execJumpOffset (nnn : BitVec 12) (s : State) : Result :=
  .next (s.setPc (zextReg (s.reg 0) + zextAddr nnn))

end Sys2Proof.Machine
end

