-- ==== Sys2Proof/Machine/IndexMemory.lean ====
section
/-! DEFINITION. Index register and memory instructions (spec 44_index_memory.md). Each leaves VF alone unless x names
it, and FX33, FX55, FX65 leave I unchanged (R170). -/

namespace Sys2Proof.Machine

/-- ANNN `load-index nnn` (R171). -/
def execLoadIndex (nnn : BitVec 12) (s : State) : Result := .next (s.setIdx (zextAddr nnn)).advance

/-- FX1E `add-to-index Vx` (R172): modulo 65536, no flag. DESIGN CHOICE for the wrap (the spec's own, D26; log 22). -/
def execAddToIndex (x : RegIdx) (s : State) : Result := .next (s.setIdx (s.idx + zextReg (s.reg x))).advance

/-- FX29 `font-address Vx` (R173). -/
def execFontAddress (x : RegIdx) (s : State) : Result :=
  .next (s.setIdx (glyphAddress s.params (s.reg x))).advance

/-- FX33 `bcd-store Vx` (R174). -/
def execBcdStore (x : RegIdx) (s : State) : Result :=
  checkedAccess s.base 3 (s.writeBytes s.base (bcdDigits (s.reg x))).advance

/-- FX55 `register-dump Vx` (R175). -/
def execRegisterDump (x : RegIdx) (s : State) : Result :=
  checkedAccess s.base (x.val + 1) (s.writeBytes s.base (s.regsUpTo x)).advance

/-- FX65 `register-load Vx` (R176). -/
def execRegisterLoad (x : RegIdx) (s : State) : Result :=
  checkedAccess s.base (x.val + 1) (s.setRegs (loadRegs s.v 0 (s.readBytes s.base (x.val + 1)))).advance

end Sys2Proof.Machine
end

