-- ==== Sys2Proof/Machine/KeysTimers.lean ====
section
/-! DEFINITION. Key and timer instructions (spec 46_keys_timers.md). -/

namespace Sys2Proof.Machine

/-- EX9E `skip-if-pressed Vx` (R201): the key index is the content of Vx. -/
def execSkipIfPressed (x : RegIdx) (s : State) : Result :=
  withKeyIndex (s.reg x) (s.skipIf (s.keyDown (s.reg x).toNat))

/-- EXA1 `skip-if-not-pressed Vx` (R202). -/
def execSkipIfNotPressed (x : RegIdx) (s : State) : Result :=
  withKeyIndex (s.reg x) (s.skipIf (!s.keyDown (s.reg x).toNat))

/-- FX0A `await-key Vx` (R203): with a key pressed, its index to Vx and on; with none, pc stays and the Step's status
is WAITING_KEY. DESIGN CHOICE (the spec's own, D8; log 11). -/
def execAwaitKey (x : RegIdx) (s : State) : Result :=
  match s.firstKey with
  | some k => .next (s.setReg x (BitVec.ofNat 8 k)).advance
  | none => .next s

/-- FX07 `read-delay Vx` (R204): DT before this Step's own decrement. -/
def execReadDelay (x : RegIdx) (s : State) : Result := .next (s.setReg x s.dt).advance

/-- FX15 `set-delay Vx` (R205). -/
def execSetDelay (x : RegIdx) (s : State) : Result := .next (s.setDt (s.reg x)).advance

/-- FX18 `set-sound Vx` (R206). -/
def execSetSound (x : RegIdx) (s : State) : Result := .next (s.setSt (s.reg x)).advance

end Sys2Proof.Machine
end

