-- ==== Sys2Proof/Machine/Skip.lean ====
section
/-! DEFINITION. Conditional skips on registers and immediates (spec 42_skip.md). -/

namespace Sys2Proof.Machine

/-- 3XNN `skip-eq-imm Vx, nn` (R141). -/
def execSkipEqImm (x : RegIdx) (nn : Byte) (s : State) : Result := .next (s.skipIf (s.reg x == nn))

/-- 4XNN `skip-ne-imm Vx, nn` (R142). -/
def execSkipNeImm (x : RegIdx) (nn : Byte) (s : State) : Result := .next (s.skipIf (s.reg x != nn))

/-- 5XY0 `skip-eq-reg Vx, Vy` (R143). -/
def execSkipEqReg (x y : RegIdx) (s : State) : Result := .next (s.skipIf (s.reg x == s.reg y))

/-- 9XY0 `skip-ne-reg Vx, Vy` (R144). -/
def execSkipNeReg (x y : RegIdx) (s : State) : Result := .next (s.skipIf (s.reg x != s.reg y))

end Sys2Proof.Machine
end

