-- ==== Sys2Proof/Machine/Step.lean ====
section
/-! DEFINITION. One Step (spec 40_step_cycle.md R110): fetch, decode, execute, count the timers down. -/

namespace Sys2Proof.Machine

/-- `Step()` (R110). A fault is final only for this Step: nothing is committed, and the host may step again (R117). -/
def step (s : State) : Host.Outcome State Fault Refusal :=
  if s.fetchLegal then
    match decodeWord s.fetchWord with
    | .ok i => finishStep (exec i s)
    | .error _ => finishStep (execUnknown s)
  else raiseFault .fetchOutOfBounds

/-- The state with an instruction stored where `step` fetches the next one: at pc and pc + 1, most-significant byte first
(R51). `w` holds the instruction's bits as spec/opcode_table.json numbers them, and the bits from `nbits` on are 0.
Where pc is above 4094 nothing can be fetched (R111) and nothing is stored. It stands for a Load by the host (log 26). -/
def State.withFetchWord (s : State) (nbits w : Nat) : State :=
  if s.fetchLegal then s.writeBytes s.pc.toNat (bytesOfWord (tableWord nbits w)) else s

end Sys2Proof.Machine
end

