-- ==== Sys2Proof/Machine/HostOps.lean ====
section
/-! DEFINITION. The operations by which the host drives the block (spec 47_host_operations.md), and the status of a Step
(60_exceptions.md R241). They are atomic and never overlap (R14, R220). -/

namespace Sys2Proof.Machine

/-- What a Step returns (R116, R241). It is the result of the operation and no state (R33 (a); log 7). -/
inductive StepStatus where
  /-- The instruction completed. -/
  | ok
  /-- The word matched no instruction; the word is presented with the status (R115, D13). -/
  | unknownOpcode (w : Word)
  /-- `await-key` found no key pressed (R203). -/
  | waitingKey
  /-- A fatal cause: the Step committed nothing (R117). -/
  | fault (cause : Fault)
  /-- The model's own: an instruction without a meaning. No Step of this model answers it. -/
  | refused (r : Refusal)
deriving DecidableEq, Repr

/-- The numeric codes of R241; none for the model's own refusal. DESIGN CHOICE (the spec's own, D19; log 7). -/
def StepStatus.code : StepStatus → Option Nat
  | .ok => some 0
  | .unknownOpcode _ => some 1
  | .waitingKey => some 2
  | .fault .stackUnderflow => some 8
  | .fault .memOutOfBounds => some 9
  | .fault .fetchOutOfBounds => some 10
  | .fault .stackOverflow => some 11
  | .fault .keyIndexRange => some 12
  | .refused _ => none

/-- The status a handler that did not fault sets: WAITING_KEY for `await-key` with no key pressed, OK for every other
instruction and case (R110, R241). -/
def handlerStatus (i : Instr) (s : State) : StepStatus :=
  match i with
  | .awaitKey _ => if s.firstKey.isNone then .waitingKey else .ok
  | .clearScreen | .ret | .jump _ | .call _ | .skipEqImm _ _ | .skipNeImm _ _ | .skipEqReg _ _ | .loadImm _ _
  | .addImm _ _ | .move _ _ | .orReg _ _ | .andReg _ _ | .xorReg _ _ | .addReg _ _ | .subReg _ _
  | .shiftRight _ _ | .subReverse _ _ | .shiftLeft _ _ | .skipNeReg _ _ | .loadIndex _ | .jumpOffset _
  | .randomAnd _ _ | .drawSprite _ _ _ | .skipIfPressed _ | .skipIfNotPressed _ | .readDelay _ | .setDelay _
  | .setSound _ | .addToIndex _ | .fontAddress _ | .bcdStore _ | .registerDump _ | .registerLoad _ => .ok

/-- The status of the Step taken in state `s` (R110, R116). -/
def stepStatus (s : State) : StepStatus :=
  match step s with
  | .fault cause => .fault cause
  | .refused r => .refused r
  | .next _ =>
    match decodeWord s.fetchWord with
    | .ok i => handlerStatus i s
    | .error _ => .unknownOpcode s.fetchWord

/-- The state after the Step taken in state `s`: after a fault, the state before it (R117, R252). -/
def stepState (s : State) : State :=
  match step s with
  | .next t => t
  | .fault _ => s
  | .refused _ => s

/-- One operation of the host (R220). -/
inductive HostOp where
  | reset
  | load (bytes : List Byte)
  | step
  | readAndClearDrawFlag
  | snapshotFramebuffer
  | setKey (index : Nat) (pressed : Bool)
  | readRegisters
  | readIndexRegister
  | readProgramCounter
deriving DecidableEq, Repr

/-- What an operation returns to the host (R230). -/
inductive HostResult where
  | done
  | ok
  | loadOverflow
  | invalidKeyIndex
  | status (st : StepStatus)
  | flag (b : Bool)
  | cells (fb : List Bool)
  | registers (v : Vector Byte 16)
  | word (w : Word)
deriving DecidableEq, Repr

/-- Reset (R280): the creation state in full, memory included. The draw counter is no state of the hardware and runs on, so
that the draws after a reset are fresh ones (R162; log 5). -/
def hostReset (s : State) : State := { State.resetWith s.params with draws := s.draws }

/-- Load (R221): all or nothing, into 0x200 and up, and nothing else. DESIGN CHOICE for what it leaves alone (the spec's
own, D25; log 21). -/
def hostLoad (bytes : List Byte) (s : State) : State × HostResult :=
  if bytes.length > 3584 then (s, .loadOverflow) else (s.writeBytes 0x200 bytes, .ok)

/-- SetKey (R225). -/
def hostSetKey (index : Nat) (pressed : Bool) (s : State) : State × HostResult :=
  if index > 15 then (s, .invalidKeyIndex) else (s.setKeyTo index pressed, .ok)

/-- The host's operations, each a function of the state (R220 to R228). -/
def hostOp (op : HostOp) (s : State) : State × HostResult :=
  match op with
  | .reset => (hostReset s, .done)
  | .load bytes => hostLoad bytes s
  | .step => (stepState s, .status (stepStatus s))
  | .readAndClearDrawFlag => (s.setDirty false, .flag s.dirty)
  | .snapshotFramebuffer => (s, .cells (Framebuffer.cells s.fb))
  | .setKey index pressed => hostSetKey index pressed s
  | .readRegisters => (s, .registers s.v)
  | .readIndexRegister => (s, .word s.idx)
  | .readProgramCounter => (s, .word s.pc)

/-- A run: operations of the host one after the other, and what each returned (R119). -/
def hostRun : List HostOp → State → State × List HostResult
  | [], s => (s, [])
  | op :: ops, s =>
    let r := hostOp op s
    let rest := hostRun ops r.1
    (rest.1, r.2 :: rest.2)

end Sys2Proof.Machine
end

