-- ==== Sys2Proof/Safety.lean ====
section
/-! DEFINITION. What a safe state and a safe Step are, in the terms claims use: the invariants of spec 10_state.md R38
and the fault conditions of 60_exceptions.md R241, written from the spec's table and not from `exec`. -/

namespace Sys2Proof.Machine

/-- The invariants of R38 that the types do not already give, and the constraints of R6 on the parameters. -/
structure State.Inv (s : State) : Prop where
  /-- The parameters meet R6. -/
  params : s.params.wf = true
  /-- Memory has its 4096 bytes and its canonical form (R38 (d)). -/
  mem : Memory.wf s.params s.mem = true
  /-- `0 <= SP <= STACK_DEPTH` (R38 (b)). -/
  stackDepth : stackFits s.params s.sp = true
  /-- Every live stack entry was a valid fetch address when pushed (R38 (e)). -/
  stackEntries : ∀ r ∈ s.stack, r.toNat ≤ 4094
  /-- pc is at most 0x10FE (R38 (f)). -/
  pc : s.pc.toNat ≤ 0x10FE

/-- The fault condition of each instruction, from the table of R241 (R242, R243, R245, R246); none where the table
gives the instruction no cause. -/
def faultCause (i : Instr) (s : State) : Option Fault :=
  match i with
  | .ret => if s.sp = 0 then some .stackUnderflow else none
  | .call _ => if stackHasRoom s.params s.sp then none else some .stackOverflow
  | .drawSprite _ _ n => if n.val ≥ 1 ∧ s.idx.toNat + n.val - 1 > 4095 then some .memOutOfBounds else none
  | .bcdStore _ => if s.idx.toNat + 2 > 4095 then some .memOutOfBounds else none
  | .registerDump x => if s.idx.toNat + x.val > 4095 then some .memOutOfBounds else none
  | .registerLoad x => if s.idx.toNat + x.val > 4095 then some .memOutOfBounds else none
  | .skipIfPressed x => if (s.reg x).toNat > 15 then some .keyIndexRange else none
  | .skipIfNotPressed x => if (s.reg x).toNat > 15 then some .keyIndexRange else none
  | .clearScreen | .jump _ | .skipEqImm _ _ | .skipNeImm _ _ | .skipEqReg _ _ | .loadImm _ _ | .addImm _ _
  | .move _ _ | .orReg _ _ | .andReg _ _ | .xorReg _ _ | .addReg _ _ | .subReg _ _ | .shiftRight _ _
  | .subReverse _ _ | .shiftLeft _ _ | .skipNeReg _ _ | .loadIndex _ | .jumpOffset _ | .randomAnd _ _
  | .readDelay _ | .awaitKey _ | .setDelay _ | .setSound _ | .addToIndex _ | .fontAddress _ => none

/-- A Step is safe when it commits: it answers a next state. -/
def StepCommits (s : State) : Prop := ∃ t, step s = .next t

end Sys2Proof.Machine
end

