-- ==== Sys2Proof/Certificates/Slice0/Obligations.lean ====
section
/-! DEFINITION. The statements for the provers. First the words they use, written from the spec's rules and tables in
plain arithmetic, then one `Obligations.<Name>` each. -/

namespace Sys2Proof.Claims

open Sys2Proof.Machine

/-- A row of R86 as R85 reads it: a word decodes to the row's instruction, its fields cut out of the word, whenever
`(w & mask) = match`. -/
def DecodesAs (mat mask : Word) (row : Word → Instr) : Prop :=
  ∀ w : Word, w &&& mask = mat → decodeWord w = .ok (row w)

/-- The parts of the state that an instruction can change. -/
inductive Part where
  | mem | regs | idx | pc | stack | dt | st | fb | dirty | draws
deriving DecidableEq, Repr

/-- A frame: from `s` to `t` nothing changes but the parts named. Every byte of memory and every register is compared as it
reads. The key state and the instance's parameters never change. -/
def OnlyChanges (changed : List Part) (s t : State) : Prop :=
  (.mem ∈ changed ∨ ∀ a, t.readByte a = s.readByte a) ∧
  (.regs ∈ changed ∨ ∀ r, t.reg r = s.reg r) ∧
  (.idx ∈ changed ∨ t.idx = s.idx) ∧
  (.pc ∈ changed ∨ t.pc = s.pc) ∧
  (.stack ∈ changed ∨ t.stack = s.stack) ∧
  (.dt ∈ changed ∨ t.dt = s.dt) ∧
  (.st ∈ changed ∨ t.st = s.st) ∧
  (.fb ∈ changed ∨ t.fb = s.fb) ∧
  (.dirty ∈ changed ∨ t.dirty = s.dirty) ∧
  (.draws ∈ changed ∨ t.draws = s.draws) ∧
  t.keys = s.keys ∧ t.params = s.params

/-- The instruction that the Step taken in `s` fetches and runs. -/
def Fetches (s : State) (i : Instr) : Prop := s.pc.toNat ≤ 4094 ∧ decodeWord s.fetchWord = .ok i

/-- What V[r] reads as once VF holds `f` (R150: the flag is written before the result is computed). -/
def afterFlag (s : State) (f : Nat) (r : RegIdx) : Nat := if r = 15 then f else (s.reg r).toNat

/-- V[15] gets `f`, then V[x] gets `result`; no other register changes (R150). -/
def FlagThenResult (s t : State) (x : RegIdx) (f result : Nat) : Prop :=
  ∀ r, (t.reg r).toNat = if r = x then result else afterFlag s f r

/-- Only V[x] changes, and holds `result`. -/
def SetsRegister (s t : State) (x : RegIdx) (result : Nat) : Prop :=
  ∀ r, (t.reg r).toNat = if r = x then result else (s.reg r).toNat

/-- The sprite bit of `draw-sprite Vx, Vy, n` that lands on the cell (row, col), false where none does: bit 7 - c of the
byte at I + r, at column V[x] mod 64 + c and row V[y] mod 32 + r (R192, R194 (a)). -/
def spriteBit (s : State) (x y n : Fin 16) (row col : Nat) : Bool :=
  let x0 := (s.reg x).toNat % 64
  let y0 := (s.reg y).toNat % 32
  decide (y0 ≤ row ∧ row < y0 + n.val ∧ x0 ≤ col ∧ col < x0 + 8) &&
    (s.readByte (s.idx.toNat + (row - y0))).getLsbD (7 - (col - x0))

/-- The table of R113: the pc after each instruction, given that its handler does not fault. -/
def nextPc (i : Instr) (s : State) : Word :=
  match i with
  | .jump nnn | .call nnn => BitVec.ofNat 16 nnn.toNat
  | .jumpOffset nnn => BitVec.ofNat 16 ((s.reg 0).toNat + nnn.toNat)
  | .ret => s.stack.headD 0 + 2
  | .skipEqImm x nn => if s.reg x = nn then s.pc + 4 else s.pc + 2
  | .skipNeImm x nn => if s.reg x ≠ nn then s.pc + 4 else s.pc + 2
  | .skipEqReg x y => if s.reg x = s.reg y then s.pc + 4 else s.pc + 2
  | .skipNeReg x y => if s.reg x ≠ s.reg y then s.pc + 4 else s.pc + 2
  | .skipIfPressed x => if s.keyDown (s.reg x).toNat = true then s.pc + 4 else s.pc + 2
  | .skipIfNotPressed x => if s.keyDown (s.reg x).toNat = true then s.pc + 2 else s.pc + 4
  | .awaitKey _ => if ∃ k < 16, s.keyDown k = true then s.pc + 2 else s.pc
  | .clearScreen | .loadImm _ _ | .addImm _ _ | .move _ _ | .orReg _ _ | .andReg _ _ | .xorReg _ _ | .addReg _ _
  | .subReg _ _ | .shiftRight _ _ | .subReverse _ _ | .shiftLeft _ _ | .loadIndex _ | .randomAnd _ _
  | .drawSprite _ _ _ | .readDelay _ | .setDelay _ | .setSound _ | .addToIndex _ | .fontAddress _ | .bcdStore _
  | .registerDump _ | .registerLoad _ =>
    s.pc + 2

/-- The instructions that R20 and R64 name as writers of each part; pc is written by every instruction. -/
def mayChange (i : Instr) : List Part :=
  match i with
  | .clearScreen => [.pc, .fb]
  | .ret | .call _ => [.pc, .stack]
  | .drawSprite _ _ _ => [.pc, .fb, .regs, .dirty]
  | .loadIndex _ | .addToIndex _ | .fontAddress _ => [.pc, .idx]
  | .bcdStore _ | .registerDump _ => [.pc, .mem]
  | .setDelay _ => [.pc, .dt]
  | .setSound _ => [.pc, .st]
  | .randomAnd _ _ => [.pc, .regs, .draws]
  | .loadImm _ _ | .addImm _ _ | .move _ _ | .orReg _ _ | .andReg _ _ | .xorReg _ _ | .addReg _ _ | .subReg _ _
  | .shiftRight _ _ | .subReverse _ _ | .shiftLeft _ _ | .readDelay _ | .awaitKey _ | .registerLoad _ => [.pc, .regs]
  | .jump _ | .jumpOffset _ | .skipEqImm _ _ | .skipNeImm _ _ | .skipEqReg _ _ | .skipNeReg _ _ | .skipIfPressed _
  | .skipIfNotPressed _ => [.pc]

/-- The registers that an instruction names as its destination (R21). -/
def destinations (i : Instr) : RegIdx → Prop :=
  match i with
  | .loadImm x _ | .addImm x _ | .move x _ | .orReg x _ | .andReg x _ | .xorReg x _ | .addReg x _ | .subReg x _
  | .shiftRight x _ | .subReverse x _ | .shiftLeft x _ | .randomAnd x _ | .readDelay x | .awaitKey x => fun r => r = x
  | .registerLoad x => fun r => r ≤ x
  | .clearScreen | .ret | .jump _ | .call _ | .skipEqImm _ _ | .skipNeImm _ _ | .skipEqReg _ _ | .skipNeReg _ _
  | .loadIndex _ | .jumpOffset _ | .drawSprite _ _ _ | .skipIfPressed _ | .skipIfNotPressed _ | .setDelay _
  | .setSound _ | .addToIndex _ | .fontAddress _ | .bcdStore _ | .registerDump _ =>
    fun _ => False

/-- The six implicit writers of VF (R22). -/
def writesFlag (i : Instr) : Prop :=
  match i with
  | .addReg _ _ | .subReg _ _ | .shiftRight _ _ | .subReverse _ _ | .shiftLeft _ _ | .drawSprite _ _ _ => True
  | .clearScreen | .ret | .jump _ | .call _ | .skipEqImm _ _ | .skipNeImm _ _ | .skipEqReg _ _ | .loadImm _ _
  | .addImm _ _ | .move _ _ | .orReg _ _ | .andReg _ _ | .xorReg _ _ | .skipNeReg _ _ | .loadIndex _
  | .jumpOffset _ | .randomAnd _ _ | .skipIfPressed _ | .skipIfNotPressed _ | .readDelay _ | .awaitKey _
  | .setDelay _ | .setSound _ | .addToIndex _ | .fontAddress _ | .bcdStore _ | .registerDump _ | .registerLoad _ => False

/-- The match and mask columns of R86, in the table's order. -/
def opcodeRows : List (Word × Word) :=
  [(0x00E0, 0xFFFF), (0x00EE, 0xFFFF), (0x1000, 0xF000), (0x2000, 0xF000), (0x3000, 0xF000), (0x4000, 0xF000),
   (0x5000, 0xF00F), (0x6000, 0xF000), (0x7000, 0xF000)] ++
  [(0x8000, 0xF00F), (0x8001, 0xF00F), (0x8002, 0xF00F), (0x8003, 0xF00F), (0x8004, 0xF00F), (0x8005, 0xF00F),
   (0x8006, 0xF00F), (0x8007, 0xF00F), (0x800E, 0xF00F), (0x9000, 0xF00F)] ++
  [(0xA000, 0xF000), (0xB000, 0xF000), (0xC000, 0xF000), (0xD000, 0xF000), (0xE09E, 0xF0FF), (0xE0A1, 0xF0FF)] ++
  [(0xF007, 0xF0FF), (0xF00A, 0xF0FF), (0xF015, 0xF0FF), (0xF018, 0xF0FF), (0xF01E, 0xF0FF), (0xF029, 0xF0FF),
   (0xF033, 0xF0FF), (0xF055, 0xF0FF), (0xF065, 0xF0FF)]

/-- `j` committed Steps from `s` to `t`, none of which runs `set-delay` (R205). -/
def RunsWithoutSetDelay : Nat → State → State → Prop
  | 0, s, t => t = s
  | j + 1, s, t =>
    ∃ u, step s = .next u ∧ (∀ x, decodeWord s.fetchWord ≠ .ok (.setDelay x)) ∧ RunsWithoutSetDelay j u t

/-- `await-key` with no key pressed: the one case in which an instruction completes with another status than OK (R203, R241). -/
def WaitsForAKey (i : Instr) (s : State) : Prop := (∃ x, i = .awaitKey x) ∧ ∀ k, k < 16 → s.keyDown k = false

/-- In `t` and in every later state in which the byte at `a` still reads as in `t`, a fetch from `a` or from `a - 1` sees that
byte, and it is `b` (R62). -/
def SeenByFetches (t : State) (a : Nat) (b : Byte) : Prop :=
  ∀ u : State, u.readByte a = t.readByte a →
    (u.pc.toNat = a → highByte u.fetchWord = b) ∧ (u.pc.toNat + 1 = a → lowByte u.fetchWord = b)

/-- The outcome with the next state seen through `f`. -/
def mapNext (f : State → State) : Result → Result
  | .next t => .next (f t)
  | .fault c => .fault c
  | .refused r => .refused r

end Sys2Proof.Claims

open Sys2Proof Sys2Proof.Machine Sys2Proof.Claims

/-! ### Reset -/

/-- R37, for every instance whose parameters meet R6. The font and the released keys are the spec's own decisions (D4, D5,
D15), and the font's bytes are whatever the instance's FONT_DATA says; the host's reset re-establishes the whole state
(R280, D18) and leaves the model's draw counter running (log 5). -/
def Obligations.ResetLeavesTheSpecifiedState : Prop :=
  (∀ p : Params, p.wf = true →
    (∀ k, k < 80 → some ((State.resetWith p).readByte (p.fontBase + k)) = p.fontData[k]?) ∧
    (∀ a, a < p.fontBase ∨ p.fontBase + 80 ≤ a → (State.resetWith p).readByte a = 0) ∧
    (∀ r, (State.resetWith p).reg r = 0) ∧ (State.resetWith p).idx = 0 ∧ (State.resetWith p).pc.toNat = 0x200 ∧
    (State.resetWith p).sp = 0 ∧ (State.resetWith p).dt = 0 ∧ (State.resetWith p).st = 0 ∧
    (∀ r c, r < 32 → c < 64 → Framebuffer.cell (State.resetWith p).fb r c = false) ∧
    (State.resetWith p).dirty = false ∧ (∀ k, k < 16 → (State.resetWith p).keyDown k = false)) ∧
  (defaultParams.wf = true ∧ State.reset = State.resetWith defaultParams) ∧
  ∀ s : State, hostOp .reset s = ({ State.resetWith s.params with draws := s.draws }, .done)

/-! ### Control transfer -/

/-- R131: the target, the frame, and the corner cases (a jump to itself ticks the timers; a jump to 0xFFF is accepted). That the
Step after a jump to 0xFFF faults is the spec's own decision (D2). -/
def Obligations.JumpGoesToItsTarget : Prop :=
  DecodesAs 0x1000 0xF000 (fun w => .jump (nnnField w)) ∧
  (∀ nnn s, ∃ t, exec (.jump nnn) s = .next t ∧ t.pc.toNat = nnn.toNat ∧ OnlyChanges [.pc] s t ∧
    (nnn.toNat = 0xFFF → step t = .fault .fetchOutOfBounds)) ∧
  ∀ nnn s, Fetches s (.jump nnn) → s.pc.toNat = nnn.toNat →
    ∃ t, step s = .next t ∧ t.pc = s.pc ∧ t.dt.toNat = s.dt.toNat - 1 ∧ t.st.toNat = s.st.toNat - 1 ∧
      OnlyChanges [.dt, .st] s t

/-- R132: the call's own address is pushed, not the next one's. The capacity and STACK_OVERFLOW are the spec's own decision
(D3), for every STACK_DEPTH, an unbounded one too. -/
def Obligations.CallPushesItsOwnAddress : Prop :=
  DecodesAs 0x2000 0xF000 (fun w => .call (nnnField w)) ∧
  ∀ nnn s,
    ((∀ d, s.params.stackDepth = some d → s.sp < d) →
      ∃ t, exec (.call nnn) s = .next t ∧ t.stack = s.pc :: s.stack ∧ t.sp = s.sp + 1 ∧ t.stk s.sp = some s.pc ∧
        (∀ k, k < s.sp → t.stk k = s.stk k) ∧ t.pc.toNat = nnn.toNat ∧ OnlyChanges [.stack, .pc] s t) ∧
    (∀ d, s.params.stackDepth = some d → d ≤ s.sp → exec (.call nnn) s = .fault .stackOverflow)

/-- R133: the most recent entry is popped and pc is two past it; on an empty stack the Step faults. That nothing changes on the
fault is the spec's own decision (D1). -/
def Obligations.ReturnResumesAfterTheCall : Prop :=
  DecodesAs 0x00EE 0xFFFF (fun _ => .ret) ∧
  (∀ s r, 0 < s.sp → s.stk (s.sp - 1) = some r →
    ∃ t, exec .ret s = .next t ∧ t.pc.toNat = (r.toNat + 2) % 65536 ∧ t.sp = s.sp - 1 ∧
      (∀ k, k < s.sp - 1 → t.stk k = s.stk k) ∧ OnlyChanges [.stack, .pc] s t) ∧
  (∀ s, s.sp = 0 → exec .ret s = .fault .stackUnderflow) ∧
  ∀ s, s.sp = 0 → Fetches s .ret → hostOp .step s = (s, .status (.fault .stackUnderflow))

/-- R134: V0 plus nnn, not reduced modulo 4096. That a large sum makes the Step after it fault is the spec's own decision
(D2). -/
def Obligations.JumpOffsetAddsV0 : Prop :=
  DecodesAs 0xB000 0xF000 (fun w => .jumpOffset (nnnField w)) ∧
  ∀ nnn s, ∃ t, exec (.jumpOffset nnn) s = .next t ∧ t.pc.toNat = (s.reg 0).toNat + nnn.toNat ∧
    OnlyChanges [.pc] s t ∧ (4094 < (s.reg 0).toNat + nnn.toNat → step t = .fault .fetchOutOfBounds)

/-- R135: a call, and any run of its subroutine that reaches a return with the stack as the call left it. -/
def Obligations.CallAndReturnResumeAfterTheCall : Prop :=
  ∀ nnn s u, exec (.call nnn) s = .next u →
    ∀ v : State, v.stack = u.stack →
      ∃ t, exec .ret v = .next t ∧ t.pc = s.pc + 2 ∧ t.stack = s.stack ∧ OnlyChanges [.stack, .pc] v t

/-! ### Skips -/

/-- R141 and R142 whole: the whole register against the whole immediate; nothing but pc is written. -/
def Obligations.SkipsOnAnImmediate : Prop :=
  DecodesAs 0x3000 0xF000 (fun w => .skipEqImm (xField w) (nnField w)) ∧
  DecodesAs 0x4000 0xF000 (fun w => .skipNeImm (xField w) (nnField w)) ∧
  ∀ x nn s,
    (∃ t, exec (.skipEqImm x nn) s = .next t ∧ OnlyChanges [.pc] s t ∧
      (s.reg x = nn → t.pc = s.pc + 4) ∧ (s.reg x ≠ nn → t.pc = s.pc + 2)) ∧
    (∃ t, exec (.skipNeImm x nn) s = .next t ∧ OnlyChanges [.pc] s t ∧
      (s.reg x ≠ nn → t.pc = s.pc + 4) ∧ (s.reg x = nn → t.pc = s.pc + 2))

/-- R143 and R144, with the trailing nibble that must be 0: that any other is an unknown opcode is the spec's own decision
(D12). -/
def Obligations.SkipsOnARegister : Prop :=
  DecodesAs 0x5000 0xF00F (fun w => .skipEqReg (xField w) (yField w)) ∧
  DecodesAs 0x9000 0xF00F (fun w => .skipNeReg (xField w) (yField w)) ∧
  (∀ w : Word, opField w = 5 ∨ opField w = 9 → nField w ≠ 0 → decodeWord w = .error (.unknownOpcode w)) ∧
  ∀ x y s,
    (∃ t, exec (.skipEqReg x y) s = .next t ∧ OnlyChanges [.pc] s t ∧
      (s.reg x = s.reg y → t.pc = s.pc + 4) ∧ (s.reg x ≠ s.reg y → t.pc = s.pc + 2)) ∧
    (∃ t, exec (.skipNeReg x y) s = .next t ∧ OnlyChanges [.pc] s t ∧
      (s.reg x ≠ s.reg y → t.pc = s.pc + 4) ∧ (s.reg x = s.reg y → t.pc = s.pc + 2))

/-! ### Loads and the ALU -/

/-- R151 and R152 whole: with x = 15 VF is the plain destination, and otherwise it is untouched. -/
def Obligations.LoadImmAndAddImmWriteOneRegister : Prop :=
  DecodesAs 0x6000 0xF000 (fun w => .loadImm (xField w) (nnField w)) ∧
  DecodesAs 0x7000 0xF000 (fun w => .addImm (xField w) (nnField w)) ∧
  ∀ x nn s,
    (∃ t, exec (.loadImm x nn) s = .next t ∧ SetsRegister s t x nn.toNat ∧ t.pc = s.pc + 2 ∧
      OnlyChanges [.regs, .pc] s t) ∧
    (∃ t, exec (.addImm x nn) s = .next t ∧ SetsRegister s t x (((s.reg x).toNat + nn.toNat) % 256) ∧
      t.pc = s.pc + 2 ∧ OnlyChanges [.regs, .pc] s t)

/-- R153 to R156 whole: VF is left alone unless x = 15. -/
def Obligations.MoveAndLogicWriteOneRegister : Prop :=
  DecodesAs 0x8000 0xF00F (fun w => .move (xField w) (yField w)) ∧
  DecodesAs 0x8001 0xF00F (fun w => .orReg (xField w) (yField w)) ∧
  DecodesAs 0x8002 0xF00F (fun w => .andReg (xField w) (yField w)) ∧
  DecodesAs 0x8003 0xF00F (fun w => .xorReg (xField w) (yField w)) ∧
  ∀ x y s,
    (∃ t, exec (.move x y) s = .next t ∧ SetsRegister s t x (s.reg y).toNat ∧ t.pc = s.pc + 2 ∧
      OnlyChanges [.regs, .pc] s t) ∧
    (∃ t, exec (.orReg x y) s = .next t ∧ SetsRegister s t x ((s.reg x).toNat ||| (s.reg y).toNat) ∧
      t.pc = s.pc + 2 ∧ OnlyChanges [.regs, .pc] s t) ∧
    (∃ t, exec (.andReg x y) s = .next t ∧ SetsRegister s t x ((s.reg x).toNat &&& (s.reg y).toNat) ∧
      t.pc = s.pc + 2 ∧ OnlyChanges [.regs, .pc] s t) ∧
    (∃ t, exec (.xorReg x y) s = .next t ∧ SetsRegister s t x ((s.reg x).toNat ^^^ (s.reg y).toNat) ∧
      t.pc = s.pc + 2 ∧ OnlyChanges [.regs, .pc] s t)

/-- R157: the sum is latched first, VF gets the carry, Vx gets the sum. The order of the two writes, which shows when x or y is 15,
is the spec's own decision (D11, log 13). -/
def Obligations.AddWritesTheCarryThenTheSum : Prop :=
  DecodesAs 0x8004 0xF00F (fun w => .addReg (xField w) (yField w)) ∧
  ∀ x y s, ∃ t, exec (.addReg x y) s = .next t ∧ t.pc = s.pc + 2 ∧ OnlyChanges [.regs, .pc] s t ∧
    FlagThenResult s t x (if (s.reg x).toNat + (s.reg y).toNat > 255 then 1 else 0)
      (((s.reg x).toNat + (s.reg y).toNat) % 256)

/-- R158: VF is written first and the difference reads V after it. That order, which shows when x or y is 15, is the spec's own
decision (D11, log 13). -/
def Obligations.SubWritesNoBorrowThenTheDifference : Prop :=
  DecodesAs 0x8005 0xF00F (fun w => .subReg (xField w) (yField w)) ∧
  ∀ x y s f, f = (if (s.reg y).toNat > (s.reg x).toNat then 0 else 1) →
    ∃ t, exec (.subReg x y) s = .next t ∧ t.pc = s.pc + 2 ∧ OnlyChanges [.regs, .pc] s t ∧
      FlagThenResult s t x f ((afterFlag s f x + 256 - afterFlag s f y) % 256)

/-- R160: the comparison is strict, so equal operands give VF = 0. The order of the two writes is the spec's own decision (D11,
log 13). -/
def Obligations.SubReverseWritesGreaterThenTheDifference : Prop :=
  DecodesAs 0x8007 0xF00F (fun w => .subReverse (xField w) (yField w)) ∧
  ∀ x y s f, f = (if (s.reg y).toNat > (s.reg x).toNat then 1 else 0) →
    ∃ t, exec (.subReverse x y) s = .next t ∧ t.pc = s.pc + 2 ∧ OnlyChanges [.regs, .pc] s t ∧
      FlagThenResult s t x f ((afterFlag s f y + 256 - afterFlag s f x) % 256)

/-- R159: the operand is Vx, any y; VF gets bit 0 and Vx its half, of V as the line before left it. That order, which shows when x
is 15, is the spec's own decision (D11, log 13). -/
def Obligations.ShiftRightWritesBitZeroThenTheHalf : Prop :=
  DecodesAs 0x8006 0xF00F (fun w => .shiftRight (xField w) (yField w)) ∧
  ∀ x y s f, f = (s.reg x).toNat % 2 →
    ∃ t, exec (.shiftRight x y) s = .next t ∧ t.pc = s.pc + 2 ∧ OnlyChanges [.regs, .pc] s t ∧
      FlagThenResult s t x f (afterFlag s f x / 2)

/-- R161: the operand is Vx, any y; VF gets bit 7 and Vx its double modulo 256, of V as the line before left it. That order, which
shows when x is 15, is the spec's own decision (D11, log 13). -/
def Obligations.ShiftLeftWritesBitSevenThenTheDouble : Prop :=
  DecodesAs 0x800E 0xF00F (fun w => .shiftLeft (xField w) (yField w)) ∧
  ∀ x y s f, f = (s.reg x).toNat / 128 →
    ∃ t, exec (.shiftLeft x y) s = .next t ∧ t.pc = s.pc + 2 ∧ OnlyChanges [.regs, .pc] s t ∧
      FlagThenResult s t x f (afterFlag s f x * 2 % 256)

/-- The table of R165, which the spec derives from its own decision D11: what VF and Vx hold when VF is an operand. -/
def Obligations.FlagWritersWithVfAsAnOperand : Prop :=
  ∀ (s : State) (x y : RegIdx) (v a b : Nat), x ≠ 15 → y ≠ 15 →
    v = (s.reg 15).toNat → a = (s.reg x).toNat → b = (s.reg y).toNat →
    (∃ t, exec (.addReg 15 y) s = .next t ∧ (t.reg 15).toNat = (v + b) % 256) ∧
    (∃ t, exec (.addReg x 15) s = .next t ∧ (t.reg x).toNat = (a + v) % 256 ∧
      (t.reg 15).toNat = if a + v > 255 then 1 else 0) ∧
    (∃ t, exec (.addReg 15 15) s = .next t ∧ (t.reg 15).toNat = 2 * v % 256) ∧
    (∃ t, exec (.subReg 15 y) s = .next t ∧ (t.reg 15).toNat = ((if b > v then 0 else 1) + 256 - b) % 256) ∧
    (∃ t, exec (.subReg x 15) s = .next t ∧ (t.reg x).toNat = (a + 256 - (if v > a then 0 else 1)) % 256 ∧
      (t.reg 15).toNat = if v > a then 0 else 1) ∧
    (∃ t, exec (.subReg 15 15) s = .next t ∧ (t.reg 15).toNat = 0) ∧
    (∀ z, ∃ t, exec (.shiftRight 15 z) s = .next t ∧ (t.reg 15).toNat = 0) ∧
    (∃ t, exec (.subReverse 15 y) s = .next t ∧ (t.reg 15).toNat = (b + 256 - (if b > v then 1 else 0)) % 256) ∧
    (∃ t, exec (.subReverse x 15) s = .next t ∧ (t.reg x).toNat = ((if v > a then 1 else 0) + 256 - a) % 256 ∧
      (t.reg 15).toNat = if v > a then 1 else 0) ∧
    (∃ t, exec (.subReverse 15 15) s = .next t ∧ (t.reg 15).toNat = 0) ∧
    (∀ z, ∃ t, exec (.shiftLeft 15 z) s = .next t ∧ (t.reg 15).toNat = 2 * (v / 128))

/-- R162 with its free draw (D14, log 5): whatever byte is drawn, Vx is the mask and that byte, and no bit outside the mask is
ever set; the next execution draws anew. -/
def Obligations.RandomAndMasksAFreshDraw : Prop :=
  DecodesAs 0xC000 0xF000 (fun w => .randomAnd (xField w) (nnField w)) ∧
  ∀ x nn s, ∃ t, exec (.randomAnd x nn) s = .next t ∧
    SetsRegister s t x (nn &&& Config.randomByte s.draws).toNat ∧ t.reg x &&& ~~~nn = 0 ∧
    t.draws = s.draws + 1 ∧ t.pc = s.pc + 2 ∧ OnlyChanges [.regs, .pc, .draws] s t

/-! ### Index register and memory -/

/-- R171 whole, and the source's property of it: from reset, load the two bytes, step once. -/
def Obligations.LoadIndexSetsTheIndex : Prop :=
  DecodesAs 0xA000 0xF000 (fun w => .loadIndex (nnnField w)) ∧
  (∀ nnn s, ∃ t, exec (.loadIndex nnn) s = .next t ∧ t.idx.toNat = nnn.toNat ∧ t.pc = s.pc + 2 ∧
    OnlyChanges [.idx, .pc] s t) ∧
  ∀ (nnn : BitVec 12) (hi lo : Byte), hi.toNat = 0xA0 + nnn.toNat / 256 → lo.toNat = nnn.toNat % 256 →
    ∃ t, hostRun [.load [hi, lo], .step] State.reset = (t, [.ok, .status .ok]) ∧ t.idx.toNat = nnn.toNat ∧
      t.pc.toNat = 0x202

/-- R172. The wrap at 65536 is the spec's own decision (D26); no flag is written and no fault raised. -/
def Obligations.AddToIndexWrapsAtSixteenBits : Prop :=
  DecodesAs 0xF01E 0xF0FF (fun w => .addToIndex (xField w)) ∧
  ∀ x s, ∃ t, exec (.addToIndex x) s = .next t ∧ t.idx.toNat = (s.idx.toNat + (s.reg x).toNat) % 65536 ∧
    t.pc = s.pc + 2 ∧ OnlyChanges [.idx, .pc] s t

/-- R173, for every FONT_BASE that R6 allows. The layout is the spec's own decision (D4), and so is the formula for Vx above
15 (D6). -/
def Obligations.FontAddressPointsAtTheGlyph : Prop :=
  DecodesAs 0xF029 0xF0FF (fun w => .fontAddress (xField w)) ∧
  ∀ x s, s.params.wf = true → ∃ t, exec (.fontAddress x) s = .next t ∧
    t.idx.toNat = s.params.fontBase + 5 * (s.reg x).toNat ∧ t.pc = s.pc + 2 ∧ OnlyChanges [.idx, .pc] s t

/-- R174 whole: three digit bytes at I, I + 1 and I + 2, every other byte as before, or MEM_OUT_OF_BOUNDS. Memory is in its
canonical form, which every Step keeps (`EveryStepKeepsTheInvariant`). -/
def Obligations.BcdStoreWritesTheThreeDigits : Prop :=
  DecodesAs 0xF033 0xF0FF (fun w => .bcdStore (xField w)) ∧
  ∀ x s,
    (s.idx.toNat + 2 ≤ 4095 → Memory.wf s.params s.mem = true →
      ∃ t, exec (.bcdStore x) s = .next t ∧
        (t.readByte s.base).toNat = (s.reg x).toNat / 100 ∧
        (t.readByte (s.base + 1)).toNat = (s.reg x).toNat / 10 % 10 ∧
        (t.readByte (s.base + 2)).toNat = (s.reg x).toNat % 10 ∧
        (∀ a, a < s.base ∨ s.base + 3 ≤ a → t.readByte a = s.readByte a) ∧
        t.pc = s.pc + 2 ∧ OnlyChanges [.mem, .pc] s t) ∧
    (s.idx.toNat + 2 > 4095 → exec (.bcdStore x) s = .fault .memOutOfBounds)

/-- R175 whole: V0 to Vx at I to I + x, every other byte and I as before, or MEM_OUT_OF_BOUNDS. -/
def Obligations.RegisterDumpStoresV0ToVx : Prop :=
  DecodesAs 0xF055 0xF0FF (fun w => .registerDump (xField w)) ∧
  ∀ x s,
    (s.idx.toNat + x.val ≤ 4095 → Memory.wf s.params s.mem = true →
      ∃ t, exec (.registerDump x) s = .next t ∧
        (∀ k : RegIdx, k ≤ x → t.readByte (s.base + k.val) = s.reg k) ∧
        (∀ a, a < s.base ∨ s.base + x.val < a → t.readByte a = s.readByte a) ∧
        t.pc = s.pc + 2 ∧ OnlyChanges [.mem, .pc] s t) ∧
    (s.idx.toNat + x.val > 4095 → exec (.registerDump x) s = .fault .memOutOfBounds)

/-- R176 whole: MEM[I] to MEM[I + x] into V0 to Vx, the registers above Vx, I and memory as before, or MEM_OUT_OF_BOUNDS; a dump
and then a load with the same I and x restore the registers, whatever happened to them in between, and a load and then a dump
rewrite the bytes that are there. -/
def Obligations.RegisterLoadFillsV0ToVx : Prop :=
  DecodesAs 0xF065 0xF0FF (fun w => .registerLoad (xField w)) ∧
  (∀ x s,
    (s.idx.toNat + x.val ≤ 4095 →
      ∃ t, exec (.registerLoad x) s = .next t ∧
        (∀ r : RegIdx, t.reg r = if r ≤ x then s.readByte (s.base + r.val) else s.reg r) ∧
        t.pc = s.pc + 2 ∧ OnlyChanges [.regs, .pc] s t) ∧
    (s.idx.toNat + x.val > 4095 → exec (.registerLoad x) s = .fault .memOutOfBounds)) ∧
  (∀ x s t (u : State), Memory.wf s.params s.mem = true → exec (.registerDump x) s = .next t →
    u.mem = t.mem → u.params = t.params → u.idx = t.idx →
    ∃ w, exec (.registerLoad x) u = .next w ∧ ∀ r : RegIdx, r ≤ x → w.reg r = s.reg r) ∧
  ∀ x s t, Memory.wf s.params s.mem = true → exec (.registerLoad x) s = .next t →
    ∃ u, exec (.registerDump x) t = .next u ∧ u.mem = s.mem

/-- R62, the spec's own decision (D24, log 20), for both storing instructions: every byte that FX55 or FX33 stores is seen by every
later fetch from its address or from the one before it, the very next Step's among them; and where pc comes to stand on two
bytes that FX55 stored, they are the word fetched next. -/
def Obligations.AStoreIsSeenByTheNextFetch : Prop :=
  (∀ x s t, Memory.wf s.params s.mem = true → exec (.registerDump x) s = .next t →
    (∀ k : RegIdx, k ≤ x → SeenByFetches t (s.base + k.val) (s.reg k)) ∧
    ∀ (k k' : RegIdx), k' ≤ x → k'.val = k.val + 1 → (s.pc + 2).toNat = s.base + k.val →
      t.fetchWord = s.reg k ++ s.reg k') ∧
  ∀ x s t, Memory.wf s.params s.mem = true → exec (.bcdStore x) s = .next t →
    SeenByFetches t s.base (BitVec.ofNat 8 ((s.reg x).toNat / 100)) ∧
    SeenByFetches t (s.base + 1) (BitVec.ofNat 8 ((s.reg x).toNat / 10 % 10)) ∧
    SeenByFetches t (s.base + 2) (BitVec.ofNat 8 ((s.reg x).toNat % 10))

/-- The canonical form of memory does its work: memories that read the same everywhere are the same data (R25, log 25). -/
def Obligations.MemoriesThatReadTheSameAreEqual : Prop :=
  ∀ (p : Params) (m n : Memory), Memory.wf p m = true → Memory.wf p n = true →
    (∀ a, a < 4096 → memRead p m a = memRead p n a) → m = n

/-! ### Framebuffer -/

/-- R191: every cell 0, and nothing else but pc. That DIRTY is left alone is the spec's own decision (D17). -/
def Obligations.ClearScreenZeroesEveryCell : Prop :=
  DecodesAs 0x00E0 0xFFFF (fun _ => .clearScreen) ∧
  ∀ s, ∃ t, exec .clearScreen s = .next t ∧ (∀ r c, r < 32 → c < 64 → Framebuffer.cell t.fb r c = false) ∧
    t.pc = s.pc + 2 ∧ OnlyChanges [.fb, .pc] s t

/-- R192 as the laws of R194 (a) and (b) read it: each cell is exclusive-or'd with the sprite bit that lands on it, VF is 1
exactly when a lit cell is turned off, DIRTY is set, or MEM_OUT_OF_BOUNDS. Clipping, the checked range and the order of VF are
the spec's own decisions (D9, D10, D11). -/
def Obligations.DrawSpriteXorsTheSpriteIntoTheGrid : Prop :=
  DecodesAs 0xD000 0xF000 (fun w => .drawSprite (xField w) (yField w) (nField w)) ∧
  ∀ x y n s,
    (n.val = 0 ∨ s.idx.toNat + n.val - 1 ≤ 4095 →
      ∃ t, exec (.drawSprite x y n) s = .next t ∧
        (∀ r c, r < 32 → c < 64 →
          Framebuffer.cell t.fb r c = (Framebuffer.cell s.fb r c ^^ spriteBit s x y n r c)) ∧
        ((∃ r c, r < 32 ∧ c < 64 ∧ Framebuffer.cell s.fb r c = true ∧ spriteBit s x y n r c = true) →
          t.reg 15 = 1) ∧
        ((∀ r c, r < 32 → c < 64 → Framebuffer.cell s.fb r c = true → spriteBit s x y n r c = false) →
          t.reg 15 = 0) ∧
        (∀ r, r ≠ 15 → t.reg r = s.reg r) ∧ t.dirty = true ∧ t.pc = s.pc + 2 ∧
        OnlyChanges [.fb, .regs, .dirty, .pc] s t) ∧
    (n.val ≥ 1 → s.idx.toNat + n.val - 1 > 4095 → exec (.drawSprite x y n) s = .fault .memOutOfBounds)

/-- R194 (c): drawn twice at one origin, a sprite restores the framebuffer, and the second draw's VF says whether the first lit
a dark cell. The hypothesis on the origin covers x or y = 15, where the first draw writes a register of the origin. -/
def Obligations.DrawingTwiceRestoresTheFramebuffer : Prop :=
  ∀ x y n s t, exec (.drawSprite x y n) s = .next t →
    (t.reg x).toNat % 64 = (s.reg x).toNat % 64 → (t.reg y).toNat % 32 = (s.reg y).toNat % 32 →
    ∃ u, exec (.drawSprite x y n) t = .next u ∧ u.fb = s.fb ∧
      (u.reg 15 = 1 ↔ ∃ r c, r < 32 ∧ c < 64 ∧ Framebuffer.cell s.fb r c = false ∧
        Framebuffer.cell t.fb r c = true)

/-! ### Keys and timers -/

/-- R201 and R202: a skip on the level of the key whose number Vx holds. The fault above 15 is the spec's own decision (D7). -/
def Obligations.KeySkipsTestTheKeyInVx : Prop :=
  DecodesAs 0xE09E 0xF0FF (fun w => .skipIfPressed (xField w)) ∧
  DecodesAs 0xE0A1 0xF0FF (fun w => .skipIfNotPressed (xField w)) ∧
  ∀ x s,
    ((s.reg x).toNat ≤ 15 →
      (∃ t, exec (.skipIfPressed x) s = .next t ∧ OnlyChanges [.pc] s t ∧
        t.pc = if s.keyDown (s.reg x).toNat = true then s.pc + 4 else s.pc + 2) ∧
      (∃ t, exec (.skipIfNotPressed x) s = .next t ∧ OnlyChanges [.pc] s t ∧
        t.pc = if s.keyDown (s.reg x).toNat = true then s.pc + 2 else s.pc + 4)) ∧
    (15 < (s.reg x).toNat →
      exec (.skipIfPressed x) s = .fault .keyIndexRange ∧ exec (.skipIfNotPressed x) s = .fault .keyIndexRange)

/-- R203, the spec's own decision (D8): the least pressed key is stored at once; with none pressed pc stays, the timers tick
and the status is WAITING_KEY. -/
def Obligations.AwaitKeyStoresTheLeastKeyOrWaits : Prop :=
  DecodesAs 0xF00A 0xF0FF (fun w => .awaitKey (xField w)) ∧
  (∀ x s k, k < 16 → s.keyDown k = true → (∀ j, j < k → s.keyDown j = false) →
    ∃ t, exec (.awaitKey x) s = .next t ∧ SetsRegister s t x k ∧ t.pc = s.pc + 2 ∧
      OnlyChanges [.regs, .pc] s t ∧ (Fetches s (.awaitKey x) → stepStatus s = .ok)) ∧
  ∀ x s, (∀ k, k < 16 → s.keyDown k = false) →
    exec (.awaitKey x) s = .next s ∧
    (Fetches s (.awaitKey x) → ∃ t, hostOp .step s = (t, .status .waitingKey) ∧ t.pc = s.pc ∧
      t.dt.toNat = s.dt.toNat - 1 ∧ t.st.toNat = s.st.toNat - 1 ∧ OnlyChanges [.dt, .st] s t)

/-- R204 whole: DT as it was before this Step's own decrement. -/
def Obligations.ReadDelayReadsBeforeTheDecrement : Prop :=
  DecodesAs 0xF007 0xF0FF (fun w => .readDelay (xField w)) ∧
  (∀ x s, ∃ t, exec (.readDelay x) s = .next t ∧ SetsRegister s t x s.dt.toNat ∧ t.pc = s.pc + 2 ∧
    OnlyChanges [.regs, .pc] s t) ∧
  ∀ x s, Fetches s (.readDelay x) →
    ∃ t, step s = .next t ∧ t.reg x = s.dt ∧ t.dt.toNat = s.dt.toNat - 1

/-- R205 and R206: the handler writes the timer, and the same Step's decrement follows (R284). -/
def Obligations.SetTimersWriteTheTimerAndTheStepDecrements : Prop :=
  DecodesAs 0xF015 0xF0FF (fun w => .setDelay (xField w)) ∧
  DecodesAs 0xF018 0xF0FF (fun w => .setSound (xField w)) ∧
  (∀ x s,
    (∃ t, exec (.setDelay x) s = .next t ∧ t.dt = s.reg x ∧ t.pc = s.pc + 2 ∧ OnlyChanges [.dt, .pc] s t) ∧
    (∃ t, exec (.setSound x) s = .next t ∧ t.st = s.reg x ∧ t.pc = s.pc + 2 ∧ OnlyChanges [.st, .pc] s t)) ∧
  ∀ x s,
    (Fetches s (.setDelay x) → ∃ t, step s = .next t ∧ t.dt.toNat = (s.reg x).toNat - 1) ∧
    (Fetches s (.setSound x) → ∃ t, step s = .next t ∧ t.st.toNat = (s.reg x).toNat - 1)

/-- R205 and R207: over any number of committed Steps with no `set-delay` among them, DT is one lower a Step and stops at 0. -/
def Obligations.DelayCountsDownOnceAStep : Prop :=
  ∀ j s t, RunsWithoutSetDelay j s t → t.dt.toNat = s.dt.toNat - j

/-- R38 (c): no Step makes a timer greater unless it runs `set-delay` or `set-sound`, and no Step that does neither lowers one
by anything but 1. -/
def Obligations.TimersRiseOnlyBySetDelayAndSetSound : Prop :=
  ∀ s t, step s = .next t →
    ((∀ x, decodeWord s.fetchWord ≠ .ok (.setDelay x)) → t.dt.toNat = s.dt.toNat - 1) ∧
    ((∀ x, decodeWord s.fetchWord ≠ .ok (.setSound x)) → t.st.toNat = s.st.toNat - 1)

/-! ### The Step -/

/-- R110, R112, R116 and R241: when the two bytes at pc decode to an instruction, the Step is that instruction's handler and then,
if it does not fault, one decrement of each timer. Its status is OK whenever the instruction completes, but for `await-key` with
no key pressed, which is WAITING_KEY (the spec's own decision D8, log 11), and the cause when it faults. That a Step answers a
status, which is no state, is the spec's resolution C3 (log 7). No instruction is refused. -/
def Obligations.AStepRunsTheDecodedInstruction : Prop :=
  ∀ s i, s.pc.toNat ≤ 4094 →
    decodeBytes [s.readByte s.pc.toNat, s.readByte (s.pc.toNat + 1)] = .ok (i, []) →
    (∀ u, exec i s = .next u → (∃ t, step s = .next t ∧ t.dt.toNat = u.dt.toNat - 1 ∧
      t.st.toNat = u.st.toNat - 1 ∧ OnlyChanges [.dt, .st] u t) ∧
      (WaitsForAKey i s → stepStatus s = .waitingKey) ∧ (¬ WaitsForAKey i s → stepStatus s = .ok)) ∧
    (∀ f, exec i s = .fault f → step s = .fault f ∧ stepStatus s = .fault f) ∧
    (∀ r, exec i s ≠ .refused r)

/-- The instruction that `withFetchWord` stores is the one the next Step fetches, and nothing but those two bytes of memory
changes (R51, log 26). -/
def Obligations.TheStoredWordIsTheOneFetched : Prop :=
  ∀ (s : State) (w : Nat), s.pc.toNat ≤ 4094 → Memory.wf s.params s.mem = true → w < 65536 →
    (s.withFetchWord 16 w).fetchWord.toNat = w ∧
    (∀ i, decodeTableWord 16 w = some i → Fetches (s.withFetchWord 16 w) i) ∧
    (∀ a, a ≠ s.pc.toNat → a ≠ s.pc.toNat + 1 → (s.withFetchWord 16 w).readByte a = s.readByte a) ∧
    OnlyChanges [.mem] s (s.withFetchWord 16 w)

/-- R115: a word that is no instruction is a reported no-op of two bytes; that the report is a status with the word is the
spec's own decision (D13). -/
def Obligations.AnUnknownOpcodeIsAReportedNoOp : Prop :=
  ∀ s, s.pc.toNat ≤ 4094 → (∀ i, decodeWord s.fetchWord ≠ .ok i) →
    ∃ t, hostOp .step s = (t, .status (.unknownOpcode s.fetchWord)) ∧ step s = .next t ∧ t.pc = s.pc + 2 ∧
      t.dt.toNat = s.dt.toNat - 1 ∧ t.st.toNat = s.st.toNat - 1 ∧ OnlyChanges [.pc, .dt, .st] s t

/-- R111 and R244, the spec's own decision (D2): a Step with pc above 4094 faults whatever memory holds, and changes
nothing. -/
def Obligations.AFetchAbove4094Faults : Prop :=
  ∀ s : State, 4094 < s.pc.toNat →
    step s = .fault .fetchOutOfBounds ∧ hostOp .step s = (s, .status (.fault .fetchOutOfBounds))

/-- R113: the next pc of every instruction, by its table, and of an unknown opcode. That a waiting `await-key` leaves pc is the
spec's own decision (D8). -/
def Obligations.ThePcFollowsTheTable : Prop :=
  (∀ i s t, exec i s = .next t → t.pc = nextPc i s) ∧
  (∀ i s t, Fetches s i → step s = .next t → t.pc = nextPc i s) ∧
  ∀ s t, (∀ i, decodeWord s.fetchWord ≠ .ok i) → step s = .next t → t.pc = s.pc + 2

/-- R20, R23, R30 to R32 and R64 over all instructions: each part of the state is written by the instructions the rules name and by
no other; no instruction changes a key or a parameter. That `clear-screen` does not write DIRTY, so that `draw-sprite` alone
does, is the spec's own decision (D17, log 17); the draw counter is the model's own (log 5). -/
def Obligations.OnlyTheNamedWritersChangeEachPart : Prop :=
  ∀ i s t, exec i s = .next t → OnlyChanges (mayChange i) s t

/-- R21 and R22 over all instructions: a register changes only as a named destination, or as VF under one of the six implicit
writers. -/
def Obligations.RegistersChangeOnlyAsDestinationsOrAsTheFlag : Prop :=
  ∀ i s t, exec i s = .next t →
    ∀ r, ¬ destinations i r → (r = 15 → ¬ writesFlag i) → t.reg r = s.reg r

/-- R22: the six implicit writers leave 0 or 1 in VF unless VF is itself the destination. -/
def Obligations.TheFlagIsZeroOrOne : Prop :=
  ∀ i s t, exec i s = .next t → writesFlag i → ¬ destinations i 15 → t.reg 15 = 0 ∨ t.reg 15 = 1

/-! ### Faults -/

/-- R241 to R246 and R251 over all states: a Step faults exactly where the table of causes says, with that cause, and it never
refuses. The causes of D2, D3 and D7 (log 8, log 9, log 10) are the spec's own decisions, and so is the range that `draw-sprite`
checks: all n bytes though their rows be clipped, and none when n = 0 (D10, log 12). -/
def Obligations.AStepFaultsExactlyWhereTheTableSays : Prop :=
  (∀ s f, step s = .fault f ↔
    (4094 < s.pc.toNat ∧ f = .fetchOutOfBounds) ∨ (∃ i, Fetches s i ∧ faultCause i s = some f)) ∧
  ∀ s r, step s ≠ .refused r

/-- Every instruction completes in every state in which the table of R241 gives it no fault, and only there. That `call` faults on
a full stack and the key skips on an index above 15, and which bytes `draw-sprite` checks, are the spec's own decisions (D3,
log 9; D7, log 10; D10, log 12). -/
def Obligations.EveryInstructionCompletesUnlessItFaults : Prop :=
  ∀ i s, (∃ t, exec i s = .next t) ↔ faultCause i s = none

/-- R117 and R252, the spec's own decision (D1): a Step that faults reports the cause and leaves every part of the state as it
was, so that the same Step faults again. -/
def Obligations.AFaultingStepChangesNothing : Prop :=
  ∀ s f, step s = .fault f →
    hostOp .step s = (s, .status (.fault f)) ∧
    ∀ n, hostRun (List.replicate n .step) s = (s, List.replicate n (.status (.fault f)))

/-! ### Invariants -/

/-- The invariants of R38 hold after reset, for every instance whose parameters meet R6. -/
def Obligations.ResetMeetsTheInvariant : Prop :=
  State.reset.Inv ∧ ∀ p : Params, p.wf = true → (State.resetWith p).Inv

/-- R38 with R24 and R26, from every state that meets them: memory keeps its canonical 4096 bytes, the stack its bound and its
fetchable entries, pc its bound, and the parameters never change. -/
def Obligations.EveryStepKeepsTheInvariant : Prop :=
  ∀ s t, s.Inv → step s = .next t → t.Inv ∧ t.params = s.params

/-- R38: "These hold after reset and after every operation", for any sequence of the host's operations, faulting Steps and refused
Loads and SetKeys among them. -/
def Obligations.EveryHostRunKeepsTheInvariant : Prop :=
  ∀ (ops : List HostOp) s, s.Inv → (hostRun ops s).1.Inv

/-! ### Independence -/

/-- R120: the random draw is used by CXNN only; a Step that runs no `random-and` does the same whatever would be drawn. -/
def Obligations.OnlyRandomAndReadsTheDraw : Prop :=
  ∀ s d, (∀ x nn, decodeWord s.fetchWord ≠ .ok (.randomAnd x nn)) →
    step { s with draws := d } = mapNext (fun t => { t with draws := d }) (step s)

/-- R28: the sound timer is state that nothing can observe: over any run, the host sees the same results whatever ST held, and
the states agree but for ST. -/
def Obligations.NothingObservesTheSoundTimer : Prop :=
  ∀ (ops : List HostOp) (s : State) (b : Byte),
    (hostRun ops { s with st := b }).2 = (hostRun ops s).2 ∧
    { (hostRun ops { s with st := b }).1 with st := 0 } = { (hostRun ops s).1 with st := 0 }

/-! ### Encoding -/

/-- R94, both ways, on words and on bytes: no bit of an operand is lost, and no two words are one instruction. -/
def Obligations.DecodeAndEncodeAgree : Prop :=
  (∀ i, i.wf = true ∧ decodeWord (encode i) = .ok i) ∧
  (∀ i rest, decodeBytes (encodeBytes i ++ rest) = .ok (i, rest)) ∧
  ∀ w i, decodeWord w = .ok i → encode i = w

/-- R85 and R87: a word is an unknown opcode exactly when no row of R86 matches it, and no word matches two rows. That a word must
match a row in every fixed bit is the spec's own decision (D12, log 14). -/
def Obligations.AWordIsUnknownExactlyWhenNoRowMatches : Prop :=
  (∀ w : Word, decodeWord w = .error (.unknownOpcode w) ↔ ∀ row ∈ opcodeRows, w &&& row.2 ≠ row.1) ∧
  (∀ w : Word, (∃ i, decodeWord w = .ok i) ↔ ∃ row ∈ opcodeRows, w &&& row.2 = row.1) ∧
  List.Pairwise (fun r q => ∀ w : Word, ¬ (w &&& r.2 = r.1 ∧ w &&& q.2 = q.1)) opcodeRows

/-- The decode checks that 95_test_vectors.md writes out, and one word of each other of the sixteen families, cut into its nibbles
by hand. -/
def Obligations.WrittenWordsDecodeAsTheSpecSays : Prop :=
  decodeWord 0xD7A5 = .ok (.drawSprite 7 0xA 5) ∧ decodeWord 0x8AB7 = .ok (.subReverse 0xA 0xB) ∧
  decodeWord 0xFE65 = .ok (.registerLoad 0xE) ∧ decodeWord 0x2FFF = .ok (.call 0xFFF) ∧
  decodeWord 0x00EE = .ok .ret ∧ decodeWord 0x00EF = .error (.unknownOpcode 0x00EF) ∧
  decodeWord 0x332A = .ok (.skipEqImm 3 0x2A) ∧ decodeWord 0xE59E = .ok (.skipIfPressed 5) ∧
  decodeWord 0xA123 = .ok (.loadIndex 0x123) ∧ decodeWord 0x1ABC = .ok (.jump 0xABC) ∧
  decodeWord 0x4F01 = .ok (.skipNeImm 15 1) ∧ decodeWord 0x5120 = .ok (.skipEqReg 1 2) ∧
  decodeWord 0x6A7F = .ok (.loadImm 0xA 0x7F) ∧ decodeWord 0x7205 = .ok (.addImm 2 5) ∧
  decodeWord 0x9340 = .ok (.skipNeReg 3 4) ∧ decodeWord 0xB210 = .ok (.jumpOffset 0x210) ∧
  decodeWord 0xC30F = .ok (.randomAnd 3 0x0F)

/-! ### The host's operations -/

/-- R221: all or nothing, at 0x200 and up. What Load leaves alone is the spec's own decision (D25, log 21). -/
def Obligations.LoadIsAllOrNothing : Prop :=
  ∀ (bytes : List Byte) s,
    (bytes.length ≤ 3584 → Memory.wf s.params s.mem = true →
      ∃ t, hostOp (.load bytes) s = (t, .ok) ∧
        (∀ k, k < bytes.length → some (t.readByte (0x200 + k)) = bytes[k]?) ∧
        (∀ a, a < 0x200 ∨ 0x200 + bytes.length ≤ a → t.readByte a = s.readByte a) ∧ OnlyChanges [.mem] s t) ∧
    (3584 < bytes.length → hostOp (.load bytes) s = (s, .loadOverflow))

/-- R225 whole: one key, or INVALID_KEY_INDEX and nothing. -/
def Obligations.SetKeyWritesOneKey : Prop :=
  ∀ index pressed (s : State),
    (index ≤ 15 → ∃ t, hostOp (.setKey index pressed) s = (t, .ok) ∧
      (∀ k, k < 16 → t.keyDown k = if k = index then pressed else s.keyDown k) ∧
      { t with keys := s.keys } = s ∧ (s.keyDown index = pressed → t = s)) ∧
    (15 < index → hostOp (.setKey index pressed) s = (s, .invalidKeyIndex))

/-- R223 whole: the read returns DIRTY and clears it, so that after a draw it is true once and then false, however many draws came
before it; the other reads change nothing. -/
def Obligations.TheDrawFlagIsReadOnce : Prop :=
  (∀ s : State, ∃ t, hostOp .readAndClearDrawFlag s = (t, .flag s.dirty) ∧ t.dirty = false ∧
    { t with dirty := s.dirty } = s ∧ hostOp .readAndClearDrawFlag t = (t, .flag false)) ∧
  (∀ x y n s t, exec (.drawSprite x y n) s = .next t →
    ∃ u, hostRun [.readAndClearDrawFlag, .readAndClearDrawFlag] t = (u, [.flag true, .flag false])) ∧
  ∀ op s, op = .snapshotFramebuffer ∨ op = .readRegisters ∨ op = .readIndexRegister ∨ op = .readProgramCounter →
    (hostOp op s).1 = s

/-- R224 and R226 to R228: what each read returns, and that it changes nothing. The order of the 2048 cells is the spec's own
decision (D16). -/
def Obligations.TheReadsReturnTheStateAndChangeNothing : Prop :=
  ∀ s : State,
    (∃ cells, hostOp .snapshotFramebuffer s = (s, .cells cells) ∧ cells.length = 2048 ∧
      ∀ r c, r < 32 → c < 64 → cells[64 * r + c]? = some (Framebuffer.cell s.fb r c)) ∧
    (∃ v, hostOp .readRegisters s = (s, .registers v) ∧ ∀ r : RegIdx, v[r.val] = s.reg r) ∧
    hostOp .readIndexRegister s = (s, .word s.idx) ∧
    hostOp .readProgramCounter s = (s, .word s.pc)

/-- The codes of R241, which are the spec's own decision (D19, log 7): each status has its own, and bit 3 is set exactly in those of
the fatal ones. The model's own refusal has none. -/
def Obligations.TheStatusesHaveTheCodesOfTheTable : Prop :=
  StepStatus.code .ok = some 0 ∧ (∀ w, StepStatus.code (.unknownOpcode w) = some 1) ∧ StepStatus.code .waitingKey = some 2 ∧
  StepStatus.code (.fault .stackUnderflow) = some 8 ∧ StepStatus.code (.fault .memOutOfBounds) = some 9 ∧
  StepStatus.code (.fault .fetchOutOfBounds) = some 10 ∧ StepStatus.code (.fault .stackOverflow) = some 11 ∧
  StepStatus.code (.fault .keyIndexRange) = some 12 ∧
  (∀ st n, StepStatus.code st = some n → (n.testBit 3 = true ↔ ∃ f, st = .fault f)) ∧
  ∀ s : State, ∃ n, StepStatus.code (stepStatus s) = some n ∧ (n.testBit 3 = true ↔ ∀ t, step s ≠ .next t)
end

