-- ==== Sys2Proof/Laws/Decode.lean ====
section
/-! SUPPORT. What a word that matches a row's mask has in the fields the decoder looks at (spec 30_encoding.md R85). -/

namespace Sys2Proof

/-- Where a mask covers the first nibble, that nibble is the row's. -/
theorem opField_of_mask {w m : Word} (mask : Word) (hm : mask.extractLsb' 12 4 = 0xF#4) (h : w &&& mask = m) :
    opField w = m.extractLsb' 12 4 := by
  rw [← h, BitVec.extractLsb'_and, hm]
  show _ = opField w &&& _
  ext i hi
  simp
  interval_cases i <;> simp

/-- Where a mask covers the trailing nibble, that nibble is the row's. -/
theorem trailingNibble_of_mask {w m : Word} (mask : Word) (hm : mask.extractLsb' 0 4 = 0xF#4) (h : w &&& mask = m) :
    w.extractLsb' 0 4 = m.extractLsb' 0 4 := by
  rw [← h, BitVec.extractLsb'_and, hm]
  ext i hi
  simp
  interval_cases i <;> simp

/-- Where a mask covers the trailing byte, that byte is the row's. -/
theorem nnField_of_mask {w m : Word} (mask : Word) (hm : mask.extractLsb' 0 8 = 0xFF#8) (h : w &&& mask = m) :
    nnField w = m.extractLsb' 0 8 := by
  rw [← h, BitVec.extractLsb'_and, hm]
  show nnField w = nnField w &&& _
  ext i hi
  simp
  interval_cases i <;> simp

/-- The decoder answers nothing but an instruction or, for the word it is given, that it is unknown (R87, R89). -/
theorem decodeWord_error {w : Word} {e : DecodeError} (h : decodeWord w = .error e) : e = .unknownOpcode w := by
  unfold decodeWord decodeFamily0 selectZero decodeFamily8 decodeFamilyE decodeFamilyF at h
  repeat' split at h
  all_goals first
    | exact (Except.error.inj h).symm
    | cases h

/-- The word of two bytes as a number (R51). -/
theorem wordOfBytes_toNat (hi lo : Byte) : (wordOfBytes hi lo).toNat = 256 * hi.toNat + lo.toNat := by
  have h := Nat.shiftLeft_add_eq_or_of_lt (i := 8) lo.isLt hi.toNat
  rw [wordOfBytes, BitVec.toNat_append, ← h, Nat.shiftLeft_eq]
  omega

/-- The high byte of a fetched word is the byte at pc (R51). -/
theorem highByte_wordOfBytes (hi lo : Byte) : highByte (wordOfBytes hi lo) = hi := by
  apply BitVec.eq_of_toNat_eq
  simp only [highByte, BitVec.extractLsb'_toNat, wordOfBytes_toNat, Nat.shiftRight_eq_div_pow]
  omega

/-- The low byte of a fetched word is the byte after it (R51). -/
theorem lowByte_wordOfBytes (hi lo : Byte) : lowByte (wordOfBytes hi lo) = lo := by
  apply BitVec.eq_of_toNat_eq
  simp only [lowByte, BitVec.extractLsb'_toNat, wordOfBytes_toNat, Nat.shiftRight_eq_div_pow]
  omega

/-- The two bytes of a word give the word back (R51). -/
theorem wordOfBytes_bytesOfWord (w : Word) : wordOfBytes (highByte w) (lowByte w) = w := by
  have h : highByte w ++ lowByte w = w.extractLsb' 0 16 := BitVec.extractLsb'_append_extractLsb'_eq_extractLsb' (by omega)
  rw [wordOfBytes, h]
  exact BitVec.extractLsb'_eq_self

/-! The fields cut out of a word, put back at their positions, are the bits that the format's mask leaves out (R94). -/

theorem ofNat_xField (w : Word) : BitVec.ofNat 16 (xField w).val = (w.extractLsb' 8 4).setWidth 16 := BitVec.ofNat_toNat ..
theorem ofNat_yField (w : Word) : BitVec.ofNat 16 (yField w).val = (w.extractLsb' 4 4).setWidth 16 := BitVec.ofNat_toNat ..
theorem ofNat_nField (w : Word) : BitVec.ofNat 16 (nField w).val = (w.extractLsb' 0 4).setWidth 16 := BitVec.ofNat_toNat ..

theorem place_nnn (w : Word) : (Fields.mk 0 0 0 0 (nnnField w).toNat).place = w &&& 0x0FFF#16 := by
  simp only [Fields.place, nnnField, BitVec.ofNat_toNat]
  ext i hi
  simp
  interval_cases i <;> simp

theorem place_xnn (w : Word) : (Fields.mk (xField w).val 0 0 (nnField w).toNat 0).place = w &&& 0x0FFF#16 := by
  simp only [Fields.place, ofNat_xField, nnField, BitVec.ofNat_toNat]
  ext i hi
  simp
  interval_cases i <;> simp

theorem place_xyn (w : Word) : (Fields.mk (xField w).val (yField w).val (nField w).val 0 0).place = w &&& 0x0FFF#16 := by
  simp only [Fields.place, ofNat_xField, ofNat_yField, ofNat_nField]
  ext i hi
  simp
  interval_cases i <;> simp

theorem place_xy (w : Word) : (Fields.mk (xField w).val (yField w).val 0 0 0).place = w &&& 0x0FF0#16 := by
  simp only [Fields.place, ofNat_xField, ofNat_yField]
  ext i hi
  simp
  interval_cases i <;> simp

theorem place_x (w : Word) : (Fields.mk (xField w).val 0 0 0 0).place = w &&& 0x0F00#16 := by
  simp only [Fields.place, ofNat_xField]
  ext i hi
  simp
  interval_cases i <;> simp

end Sys2Proof
end

