-- ==== Sys2Proof/Laws/State.lean ====
section
/-! SUPPORT. What each update of the state does to each field: one lemma a field and update, so that no proof unfolds
a record update. Below them, what the accessors read after an update. -/

namespace Sys2Proof.Machine

variable (s : State)

/-! `setReg` -/
@[simp] theorem setReg_mem (x : RegIdx) (b : Byte) : (s.setReg x b).mem = s.mem := rfl
@[simp] theorem setReg_v (x : RegIdx) (b : Byte) : (s.setReg x b).v = s.v.set x.val b := rfl
@[simp] theorem setReg_idx (x : RegIdx) (b : Byte) : (s.setReg x b).idx = s.idx := rfl
@[simp] theorem setReg_pc (x : RegIdx) (b : Byte) : (s.setReg x b).pc = s.pc := rfl
@[simp] theorem setReg_stack (x : RegIdx) (b : Byte) : (s.setReg x b).stack = s.stack := rfl
@[simp] theorem setReg_dt (x : RegIdx) (b : Byte) : (s.setReg x b).dt = s.dt := rfl
@[simp] theorem setReg_st (x : RegIdx) (b : Byte) : (s.setReg x b).st = s.st := rfl
@[simp] theorem setReg_fb (x : RegIdx) (b : Byte) : (s.setReg x b).fb = s.fb := rfl
@[simp] theorem setReg_dirty (x : RegIdx) (b : Byte) : (s.setReg x b).dirty = s.dirty := rfl
@[simp] theorem setReg_keys (x : RegIdx) (b : Byte) : (s.setReg x b).keys = s.keys := rfl
@[simp] theorem setReg_draws (x : RegIdx) (b : Byte) : (s.setReg x b).draws = s.draws := rfl
@[simp] theorem setReg_params (x : RegIdx) (b : Byte) : (s.setReg x b).params = s.params := rfl

/-! `setRegs` -/
@[simp] theorem setRegs_mem (w : Vector Byte 16) : (s.setRegs w).mem = s.mem := rfl
@[simp] theorem setRegs_v (w : Vector Byte 16) : (s.setRegs w).v = w := rfl
@[simp] theorem setRegs_idx (w : Vector Byte 16) : (s.setRegs w).idx = s.idx := rfl
@[simp] theorem setRegs_pc (w : Vector Byte 16) : (s.setRegs w).pc = s.pc := rfl
@[simp] theorem setRegs_stack (w : Vector Byte 16) : (s.setRegs w).stack = s.stack := rfl
@[simp] theorem setRegs_dt (w : Vector Byte 16) : (s.setRegs w).dt = s.dt := rfl
@[simp] theorem setRegs_st (w : Vector Byte 16) : (s.setRegs w).st = s.st := rfl
@[simp] theorem setRegs_fb (w : Vector Byte 16) : (s.setRegs w).fb = s.fb := rfl
@[simp] theorem setRegs_dirty (w : Vector Byte 16) : (s.setRegs w).dirty = s.dirty := rfl
@[simp] theorem setRegs_keys (w : Vector Byte 16) : (s.setRegs w).keys = s.keys := rfl
@[simp] theorem setRegs_draws (w : Vector Byte 16) : (s.setRegs w).draws = s.draws := rfl
@[simp] theorem setRegs_params (w : Vector Byte 16) : (s.setRegs w).params = s.params := rfl

/-! `setIdx` -/
@[simp] theorem setIdx_mem (a : Word) : (s.setIdx a).mem = s.mem := rfl
@[simp] theorem setIdx_v (a : Word) : (s.setIdx a).v = s.v := rfl
@[simp] theorem setIdx_idx (a : Word) : (s.setIdx a).idx = a := rfl
@[simp] theorem setIdx_pc (a : Word) : (s.setIdx a).pc = s.pc := rfl
@[simp] theorem setIdx_stack (a : Word) : (s.setIdx a).stack = s.stack := rfl
@[simp] theorem setIdx_dt (a : Word) : (s.setIdx a).dt = s.dt := rfl
@[simp] theorem setIdx_st (a : Word) : (s.setIdx a).st = s.st := rfl
@[simp] theorem setIdx_fb (a : Word) : (s.setIdx a).fb = s.fb := rfl
@[simp] theorem setIdx_dirty (a : Word) : (s.setIdx a).dirty = s.dirty := rfl
@[simp] theorem setIdx_keys (a : Word) : (s.setIdx a).keys = s.keys := rfl
@[simp] theorem setIdx_draws (a : Word) : (s.setIdx a).draws = s.draws := rfl
@[simp] theorem setIdx_params (a : Word) : (s.setIdx a).params = s.params := rfl

/-! `setPc` -/
@[simp] theorem setPc_mem (a : Word) : (s.setPc a).mem = s.mem := rfl
@[simp] theorem setPc_v (a : Word) : (s.setPc a).v = s.v := rfl
@[simp] theorem setPc_idx (a : Word) : (s.setPc a).idx = s.idx := rfl
@[simp] theorem setPc_pc (a : Word) : (s.setPc a).pc = a := rfl
@[simp] theorem setPc_stack (a : Word) : (s.setPc a).stack = s.stack := rfl
@[simp] theorem setPc_dt (a : Word) : (s.setPc a).dt = s.dt := rfl
@[simp] theorem setPc_st (a : Word) : (s.setPc a).st = s.st := rfl
@[simp] theorem setPc_fb (a : Word) : (s.setPc a).fb = s.fb := rfl
@[simp] theorem setPc_dirty (a : Word) : (s.setPc a).dirty = s.dirty := rfl
@[simp] theorem setPc_keys (a : Word) : (s.setPc a).keys = s.keys := rfl
@[simp] theorem setPc_draws (a : Word) : (s.setPc a).draws = s.draws := rfl
@[simp] theorem setPc_params (a : Word) : (s.setPc a).params = s.params := rfl

/-! `advance` -/
@[simp] theorem advance_mem : (s.advance).mem = s.mem := rfl
@[simp] theorem advance_v : (s.advance).v = s.v := rfl
@[simp] theorem advance_idx : (s.advance).idx = s.idx := rfl
@[simp] theorem advance_pc : (s.advance).pc = s.pc + 2 := rfl
@[simp] theorem advance_stack : (s.advance).stack = s.stack := rfl
@[simp] theorem advance_dt : (s.advance).dt = s.dt := rfl
@[simp] theorem advance_st : (s.advance).st = s.st := rfl
@[simp] theorem advance_fb : (s.advance).fb = s.fb := rfl
@[simp] theorem advance_dirty : (s.advance).dirty = s.dirty := rfl
@[simp] theorem advance_keys : (s.advance).keys = s.keys := rfl
@[simp] theorem advance_draws : (s.advance).draws = s.draws := rfl
@[simp] theorem advance_params : (s.advance).params = s.params := rfl

/-! `skipIf` -/
@[simp] theorem skipIf_mem (c : Bool) : (s.skipIf c).mem = s.mem := rfl
@[simp] theorem skipIf_v (c : Bool) : (s.skipIf c).v = s.v := rfl
@[simp] theorem skipIf_idx (c : Bool) : (s.skipIf c).idx = s.idx := rfl
@[simp] theorem skipIf_pc (c : Bool) : (s.skipIf c).pc = if c then s.pc + 4 else s.pc + 2 := rfl
@[simp] theorem skipIf_stack (c : Bool) : (s.skipIf c).stack = s.stack := rfl
@[simp] theorem skipIf_dt (c : Bool) : (s.skipIf c).dt = s.dt := rfl
@[simp] theorem skipIf_st (c : Bool) : (s.skipIf c).st = s.st := rfl
@[simp] theorem skipIf_fb (c : Bool) : (s.skipIf c).fb = s.fb := rfl
@[simp] theorem skipIf_dirty (c : Bool) : (s.skipIf c).dirty = s.dirty := rfl
@[simp] theorem skipIf_keys (c : Bool) : (s.skipIf c).keys = s.keys := rfl
@[simp] theorem skipIf_draws (c : Bool) : (s.skipIf c).draws = s.draws := rfl
@[simp] theorem skipIf_params (c : Bool) : (s.skipIf c).params = s.params := rfl

/-! `writeBytes` -/
@[simp] theorem writeBytes_mem (a : Nat) (bs : List Byte) : (s.writeBytes a bs).mem = memWriteBytes s.params a bs s.mem := rfl
@[simp] theorem writeBytes_v (a : Nat) (bs : List Byte) : (s.writeBytes a bs).v = s.v := rfl
@[simp] theorem writeBytes_idx (a : Nat) (bs : List Byte) : (s.writeBytes a bs).idx = s.idx := rfl
@[simp] theorem writeBytes_pc (a : Nat) (bs : List Byte) : (s.writeBytes a bs).pc = s.pc := rfl
@[simp] theorem writeBytes_stack (a : Nat) (bs : List Byte) : (s.writeBytes a bs).stack = s.stack := rfl
@[simp] theorem writeBytes_dt (a : Nat) (bs : List Byte) : (s.writeBytes a bs).dt = s.dt := rfl
@[simp] theorem writeBytes_st (a : Nat) (bs : List Byte) : (s.writeBytes a bs).st = s.st := rfl
@[simp] theorem writeBytes_fb (a : Nat) (bs : List Byte) : (s.writeBytes a bs).fb = s.fb := rfl
@[simp] theorem writeBytes_dirty (a : Nat) (bs : List Byte) : (s.writeBytes a bs).dirty = s.dirty := rfl
@[simp] theorem writeBytes_keys (a : Nat) (bs : List Byte) : (s.writeBytes a bs).keys = s.keys := rfl
@[simp] theorem writeBytes_draws (a : Nat) (bs : List Byte) : (s.writeBytes a bs).draws = s.draws := rfl
@[simp] theorem writeBytes_params (a : Nat) (bs : List Byte) : (s.writeBytes a bs).params = s.params := rfl

/-! `push` -/
@[simp] theorem push_mem (a : Word) : (s.push a).mem = s.mem := rfl
@[simp] theorem push_v (a : Word) : (s.push a).v = s.v := rfl
@[simp] theorem push_idx (a : Word) : (s.push a).idx = s.idx := rfl
@[simp] theorem push_pc (a : Word) : (s.push a).pc = s.pc := rfl
@[simp] theorem push_stack (a : Word) : (s.push a).stack = a :: s.stack := rfl
@[simp] theorem push_dt (a : Word) : (s.push a).dt = s.dt := rfl
@[simp] theorem push_st (a : Word) : (s.push a).st = s.st := rfl
@[simp] theorem push_fb (a : Word) : (s.push a).fb = s.fb := rfl
@[simp] theorem push_dirty (a : Word) : (s.push a).dirty = s.dirty := rfl
@[simp] theorem push_keys (a : Word) : (s.push a).keys = s.keys := rfl
@[simp] theorem push_draws (a : Word) : (s.push a).draws = s.draws := rfl
@[simp] theorem push_params (a : Word) : (s.push a).params = s.params := rfl

/-! `setStack` -/
@[simp] theorem setStack_mem (l : List Word) : (s.setStack l).mem = s.mem := rfl
@[simp] theorem setStack_v (l : List Word) : (s.setStack l).v = s.v := rfl
@[simp] theorem setStack_idx (l : List Word) : (s.setStack l).idx = s.idx := rfl
@[simp] theorem setStack_pc (l : List Word) : (s.setStack l).pc = s.pc := rfl
@[simp] theorem setStack_stack (l : List Word) : (s.setStack l).stack = l := rfl
@[simp] theorem setStack_dt (l : List Word) : (s.setStack l).dt = s.dt := rfl
@[simp] theorem setStack_st (l : List Word) : (s.setStack l).st = s.st := rfl
@[simp] theorem setStack_fb (l : List Word) : (s.setStack l).fb = s.fb := rfl
@[simp] theorem setStack_dirty (l : List Word) : (s.setStack l).dirty = s.dirty := rfl
@[simp] theorem setStack_keys (l : List Word) : (s.setStack l).keys = s.keys := rfl
@[simp] theorem setStack_draws (l : List Word) : (s.setStack l).draws = s.draws := rfl
@[simp] theorem setStack_params (l : List Word) : (s.setStack l).params = s.params := rfl

/-! `setDt` -/
@[simp] theorem setDt_mem (b : Byte) : (s.setDt b).mem = s.mem := rfl
@[simp] theorem setDt_v (b : Byte) : (s.setDt b).v = s.v := rfl
@[simp] theorem setDt_idx (b : Byte) : (s.setDt b).idx = s.idx := rfl
@[simp] theorem setDt_pc (b : Byte) : (s.setDt b).pc = s.pc := rfl
@[simp] theorem setDt_stack (b : Byte) : (s.setDt b).stack = s.stack := rfl
@[simp] theorem setDt_dt (b : Byte) : (s.setDt b).dt = b := rfl
@[simp] theorem setDt_st (b : Byte) : (s.setDt b).st = s.st := rfl
@[simp] theorem setDt_fb (b : Byte) : (s.setDt b).fb = s.fb := rfl
@[simp] theorem setDt_dirty (b : Byte) : (s.setDt b).dirty = s.dirty := rfl
@[simp] theorem setDt_keys (b : Byte) : (s.setDt b).keys = s.keys := rfl
@[simp] theorem setDt_draws (b : Byte) : (s.setDt b).draws = s.draws := rfl
@[simp] theorem setDt_params (b : Byte) : (s.setDt b).params = s.params := rfl

/-! `setSt` -/
@[simp] theorem setSt_mem (b : Byte) : (s.setSt b).mem = s.mem := rfl
@[simp] theorem setSt_v (b : Byte) : (s.setSt b).v = s.v := rfl
@[simp] theorem setSt_idx (b : Byte) : (s.setSt b).idx = s.idx := rfl
@[simp] theorem setSt_pc (b : Byte) : (s.setSt b).pc = s.pc := rfl
@[simp] theorem setSt_stack (b : Byte) : (s.setSt b).stack = s.stack := rfl
@[simp] theorem setSt_dt (b : Byte) : (s.setSt b).dt = s.dt := rfl
@[simp] theorem setSt_st (b : Byte) : (s.setSt b).st = b := rfl
@[simp] theorem setSt_fb (b : Byte) : (s.setSt b).fb = s.fb := rfl
@[simp] theorem setSt_dirty (b : Byte) : (s.setSt b).dirty = s.dirty := rfl
@[simp] theorem setSt_keys (b : Byte) : (s.setSt b).keys = s.keys := rfl
@[simp] theorem setSt_draws (b : Byte) : (s.setSt b).draws = s.draws := rfl
@[simp] theorem setSt_params (b : Byte) : (s.setSt b).params = s.params := rfl

/-! `tick` -/
@[simp] theorem tick_mem : (s.tick).mem = s.mem := rfl
@[simp] theorem tick_v : (s.tick).v = s.v := rfl
@[simp] theorem tick_idx : (s.tick).idx = s.idx := rfl
@[simp] theorem tick_pc : (s.tick).pc = s.pc := rfl
@[simp] theorem tick_stack : (s.tick).stack = s.stack := rfl
@[simp] theorem tick_dt : (s.tick).dt = countDown s.dt := rfl
@[simp] theorem tick_st : (s.tick).st = countDown s.st := rfl
@[simp] theorem tick_fb : (s.tick).fb = s.fb := rfl
@[simp] theorem tick_dirty : (s.tick).dirty = s.dirty := rfl
@[simp] theorem tick_keys : (s.tick).keys = s.keys := rfl
@[simp] theorem tick_draws : (s.tick).draws = s.draws := rfl
@[simp] theorem tick_params : (s.tick).params = s.params := rfl

/-! `setFb` -/
@[simp] theorem setFb_mem (f : Framebuffer) : (s.setFb f).mem = s.mem := rfl
@[simp] theorem setFb_v (f : Framebuffer) : (s.setFb f).v = s.v := rfl
@[simp] theorem setFb_idx (f : Framebuffer) : (s.setFb f).idx = s.idx := rfl
@[simp] theorem setFb_pc (f : Framebuffer) : (s.setFb f).pc = s.pc := rfl
@[simp] theorem setFb_stack (f : Framebuffer) : (s.setFb f).stack = s.stack := rfl
@[simp] theorem setFb_dt (f : Framebuffer) : (s.setFb f).dt = s.dt := rfl
@[simp] theorem setFb_st (f : Framebuffer) : (s.setFb f).st = s.st := rfl
@[simp] theorem setFb_fb (f : Framebuffer) : (s.setFb f).fb = f := rfl
@[simp] theorem setFb_dirty (f : Framebuffer) : (s.setFb f).dirty = s.dirty := rfl
@[simp] theorem setFb_keys (f : Framebuffer) : (s.setFb f).keys = s.keys := rfl
@[simp] theorem setFb_draws (f : Framebuffer) : (s.setFb f).draws = s.draws := rfl
@[simp] theorem setFb_params (f : Framebuffer) : (s.setFb f).params = s.params := rfl

/-! `setDirty` -/
@[simp] theorem setDirty_mem (d : Bool) : (s.setDirty d).mem = s.mem := rfl
@[simp] theorem setDirty_v (d : Bool) : (s.setDirty d).v = s.v := rfl
@[simp] theorem setDirty_idx (d : Bool) : (s.setDirty d).idx = s.idx := rfl
@[simp] theorem setDirty_pc (d : Bool) : (s.setDirty d).pc = s.pc := rfl
@[simp] theorem setDirty_stack (d : Bool) : (s.setDirty d).stack = s.stack := rfl
@[simp] theorem setDirty_dt (d : Bool) : (s.setDirty d).dt = s.dt := rfl
@[simp] theorem setDirty_st (d : Bool) : (s.setDirty d).st = s.st := rfl
@[simp] theorem setDirty_fb (d : Bool) : (s.setDirty d).fb = s.fb := rfl
@[simp] theorem setDirty_dirty (d : Bool) : (s.setDirty d).dirty = d := rfl
@[simp] theorem setDirty_keys (d : Bool) : (s.setDirty d).keys = s.keys := rfl
@[simp] theorem setDirty_draws (d : Bool) : (s.setDirty d).draws = s.draws := rfl
@[simp] theorem setDirty_params (d : Bool) : (s.setDirty d).params = s.params := rfl

/-! `setKeyTo` -/
@[simp] theorem setKeyTo_mem (k : Nat) (d : Bool) : (s.setKeyTo k d).mem = s.mem := rfl
@[simp] theorem setKeyTo_v (k : Nat) (d : Bool) : (s.setKeyTo k d).v = s.v := rfl
@[simp] theorem setKeyTo_idx (k : Nat) (d : Bool) : (s.setKeyTo k d).idx = s.idx := rfl
@[simp] theorem setKeyTo_pc (k : Nat) (d : Bool) : (s.setKeyTo k d).pc = s.pc := rfl
@[simp] theorem setKeyTo_stack (k : Nat) (d : Bool) : (s.setKeyTo k d).stack = s.stack := rfl
@[simp] theorem setKeyTo_dt (k : Nat) (d : Bool) : (s.setKeyTo k d).dt = s.dt := rfl
@[simp] theorem setKeyTo_st (k : Nat) (d : Bool) : (s.setKeyTo k d).st = s.st := rfl
@[simp] theorem setKeyTo_fb (k : Nat) (d : Bool) : (s.setKeyTo k d).fb = s.fb := rfl
@[simp] theorem setKeyTo_dirty (k : Nat) (d : Bool) : (s.setKeyTo k d).dirty = s.dirty := rfl
@[simp] theorem setKeyTo_keys (k : Nat) (d : Bool) : (s.setKeyTo k d).keys = s.keys.setIfInBounds k d := rfl
@[simp] theorem setKeyTo_draws (k : Nat) (d : Bool) : (s.setKeyTo k d).draws = s.draws := rfl
@[simp] theorem setKeyTo_params (k : Nat) (d : Bool) : (s.setKeyTo k d).params = s.params := rfl

/-! `drawn` -/
@[simp] theorem drawn_mem : (s.drawn).mem = s.mem := rfl
@[simp] theorem drawn_v : (s.drawn).v = s.v := rfl
@[simp] theorem drawn_idx : (s.drawn).idx = s.idx := rfl
@[simp] theorem drawn_pc : (s.drawn).pc = s.pc := rfl
@[simp] theorem drawn_stack : (s.drawn).stack = s.stack := rfl
@[simp] theorem drawn_dt : (s.drawn).dt = s.dt := rfl
@[simp] theorem drawn_st : (s.drawn).st = s.st := rfl
@[simp] theorem drawn_fb : (s.drawn).fb = s.fb := rfl
@[simp] theorem drawn_dirty : (s.drawn).dirty = s.dirty := rfl
@[simp] theorem drawn_keys : (s.drawn).keys = s.keys := rfl
@[simp] theorem drawn_draws : (s.drawn).draws = s.draws + 1 := rfl
@[simp] theorem drawn_params : (s.drawn).params = s.params := rfl

/-! `setFlag` -/
@[simp] theorem setFlag_mem (b : Byte) : (s.setFlag b).mem = s.mem := rfl
@[simp] theorem setFlag_v (b : Byte) : (s.setFlag b).v = s.v.set 15 b := rfl
@[simp] theorem setFlag_idx (b : Byte) : (s.setFlag b).idx = s.idx := rfl
@[simp] theorem setFlag_pc (b : Byte) : (s.setFlag b).pc = s.pc := rfl
@[simp] theorem setFlag_stack (b : Byte) : (s.setFlag b).stack = s.stack := rfl
@[simp] theorem setFlag_dt (b : Byte) : (s.setFlag b).dt = s.dt := rfl
@[simp] theorem setFlag_st (b : Byte) : (s.setFlag b).st = s.st := rfl
@[simp] theorem setFlag_fb (b : Byte) : (s.setFlag b).fb = s.fb := rfl
@[simp] theorem setFlag_dirty (b : Byte) : (s.setFlag b).dirty = s.dirty := rfl
@[simp] theorem setFlag_keys (b : Byte) : (s.setFlag b).keys = s.keys := rfl
@[simp] theorem setFlag_draws (b : Byte) : (s.setFlag b).draws = s.draws := rfl
@[simp] theorem setFlag_params (b : Byte) : (s.setFlag b).params = s.params := rfl

/-! `flagThen` -/
@[simp] theorem flagThen_mem (f : Byte) (x : RegIdx) (g : State → Byte) : (s.flagThen f x g).mem = s.mem := rfl
@[simp] theorem flagThen_v (f : Byte) (x : RegIdx) (g : State → Byte) : (s.flagThen f x g).v = (s.setFlag f).v.set x.val (g (s.setFlag f)) := rfl
@[simp] theorem flagThen_idx (f : Byte) (x : RegIdx) (g : State → Byte) : (s.flagThen f x g).idx = s.idx := rfl
@[simp] theorem flagThen_pc (f : Byte) (x : RegIdx) (g : State → Byte) : (s.flagThen f x g).pc = s.pc := rfl
@[simp] theorem flagThen_stack (f : Byte) (x : RegIdx) (g : State → Byte) : (s.flagThen f x g).stack = s.stack := rfl
@[simp] theorem flagThen_dt (f : Byte) (x : RegIdx) (g : State → Byte) : (s.flagThen f x g).dt = s.dt := rfl
@[simp] theorem flagThen_st (f : Byte) (x : RegIdx) (g : State → Byte) : (s.flagThen f x g).st = s.st := rfl
@[simp] theorem flagThen_fb (f : Byte) (x : RegIdx) (g : State → Byte) : (s.flagThen f x g).fb = s.fb := rfl
@[simp] theorem flagThen_dirty (f : Byte) (x : RegIdx) (g : State → Byte) : (s.flagThen f x g).dirty = s.dirty := rfl
@[simp] theorem flagThen_keys (f : Byte) (x : RegIdx) (g : State → Byte) : (s.flagThen f x g).keys = s.keys := rfl
@[simp] theorem flagThen_draws (f : Byte) (x : RegIdx) (g : State → Byte) : (s.flagThen f x g).draws = s.draws := rfl
@[simp] theorem flagThen_params (f : Byte) (x : RegIdx) (g : State → Byte) : (s.flagThen f x g).params = s.params := rfl

/-! `randomAnd` -/
@[simp] theorem randomAnd_mem (x : RegIdx) (nn r : Byte) : (s.randomAnd x nn r).mem = s.mem := rfl
@[simp] theorem randomAnd_v (x : RegIdx) (nn r : Byte) : (s.randomAnd x nn r).v = s.v.set x.val (nn &&& r) := rfl
@[simp] theorem randomAnd_idx (x : RegIdx) (nn r : Byte) : (s.randomAnd x nn r).idx = s.idx := rfl
@[simp] theorem randomAnd_pc (x : RegIdx) (nn r : Byte) : (s.randomAnd x nn r).pc = s.pc + 2 := rfl
@[simp] theorem randomAnd_stack (x : RegIdx) (nn r : Byte) : (s.randomAnd x nn r).stack = s.stack := rfl
@[simp] theorem randomAnd_dt (x : RegIdx) (nn r : Byte) : (s.randomAnd x nn r).dt = s.dt := rfl
@[simp] theorem randomAnd_st (x : RegIdx) (nn r : Byte) : (s.randomAnd x nn r).st = s.st := rfl
@[simp] theorem randomAnd_fb (x : RegIdx) (nn r : Byte) : (s.randomAnd x nn r).fb = s.fb := rfl
@[simp] theorem randomAnd_dirty (x : RegIdx) (nn r : Byte) : (s.randomAnd x nn r).dirty = s.dirty := rfl
@[simp] theorem randomAnd_keys (x : RegIdx) (nn r : Byte) : (s.randomAnd x nn r).keys = s.keys := rfl
@[simp] theorem randomAnd_draws (x : RegIdx) (nn r : Byte) : (s.randomAnd x nn r).draws = s.draws := rfl
@[simp] theorem randomAnd_params (x : RegIdx) (nn r : Byte) : (s.randomAnd x nn r).params = s.params := rfl

/-! Accessors after an update -/

@[simp] theorem reg_setReg (x y : RegIdx) (b : Byte) : (s.setReg x b).reg y = if x = y then b else s.reg y := by
  simp [State.reg, State.setReg, Vector.getElem_set, Fin.ext_iff]

@[simp] theorem reg_setFlag (y : RegIdx) (b : Byte) : (s.setFlag b).reg y = if vF = y then b else s.reg y :=
  reg_setReg s vF y b

/-- A state whose registers are those of `s` reads the same registers. -/
theorem reg_congr {s t : State} (h : t.v = s.v) (x : RegIdx) : t.reg x = s.reg x := by
  simp [State.reg, h]

@[simp] theorem reg_setIdx (x : RegIdx) (a : Word) : (s.setIdx a).reg x = s.reg x := rfl
@[simp] theorem reg_setPc (x : RegIdx) (a : Word) : (s.setPc a).reg x = s.reg x := rfl
@[simp] theorem reg_advance (x : RegIdx) : s.advance.reg x = s.reg x := rfl
@[simp] theorem reg_skipIf (x : RegIdx) (c : Bool) : (s.skipIf c).reg x = s.reg x := rfl
@[simp] theorem reg_writeBytes (x : RegIdx) (a : Nat) (bs : List Byte) : (s.writeBytes a bs).reg x = s.reg x := rfl
@[simp] theorem reg_push (x : RegIdx) (a : Word) : (s.push a).reg x = s.reg x := rfl
@[simp] theorem reg_setStack (x : RegIdx) (l : List Word) : (s.setStack l).reg x = s.reg x := rfl
@[simp] theorem reg_setDt (x : RegIdx) (b : Byte) : (s.setDt b).reg x = s.reg x := rfl
@[simp] theorem reg_setSt (x : RegIdx) (b : Byte) : (s.setSt b).reg x = s.reg x := rfl
@[simp] theorem reg_tick (x : RegIdx) : s.tick.reg x = s.reg x := rfl
@[simp] theorem reg_setFb (x : RegIdx) (f : Framebuffer) : (s.setFb f).reg x = s.reg x := rfl
@[simp] theorem reg_setDirty (x : RegIdx) (d : Bool) : (s.setDirty d).reg x = s.reg x := rfl
@[simp] theorem reg_setKeyTo (x : RegIdx) (k : Nat) (d : Bool) : (s.setKeyTo k d).reg x = s.reg x := rfl
@[simp] theorem reg_drawn (x : RegIdx) : s.drawn.reg x = s.reg x := rfl

/-- The flag first, the result second (R150): what each register holds afterwards. -/
@[simp] theorem reg_flagThen (f : Byte) (x y : RegIdx) (g : State → Byte) :
    (s.flagThen f x g).reg y = if x = y then g (s.setFlag f) else if vF = y then f else s.reg y := by
  simp [State.flagThen]

/-- Memory and parameters decide what a byte reads as. -/
theorem readByte_congr {s t : State} (hm : t.mem = s.mem) (hp : t.params = s.params) (a : Nat) :
    t.readByte a = s.readByte a := by
  simp [State.readByte, hm, hp]

/-! No update but a write to memory changes what a byte reads as. -/

@[simp] theorem readByte_setReg (x : RegIdx) (b : Byte) (a : Nat) : (s.setReg x b).readByte a = s.readByte a := rfl
@[simp] theorem readByte_setRegs (w : Vector Byte 16) (a : Nat) : (s.setRegs w).readByte a = s.readByte a := rfl
@[simp] theorem readByte_setIdx (i : Word) (a : Nat) : (s.setIdx i).readByte a = s.readByte a := rfl
@[simp] theorem readByte_setPc (i : Word) (a : Nat) : (s.setPc i).readByte a = s.readByte a := rfl
@[simp] theorem readByte_advance (a : Nat) : s.advance.readByte a = s.readByte a := rfl
@[simp] theorem readByte_skipIf (c : Bool) (a : Nat) : (s.skipIf c).readByte a = s.readByte a := rfl
@[simp] theorem readByte_push (i : Word) (a : Nat) : (s.push i).readByte a = s.readByte a := rfl
@[simp] theorem readByte_setStack (l : List Word) (a : Nat) : (s.setStack l).readByte a = s.readByte a := rfl
@[simp] theorem readByte_setDt (b : Byte) (a : Nat) : (s.setDt b).readByte a = s.readByte a := rfl
@[simp] theorem readByte_setSt (b : Byte) (a : Nat) : (s.setSt b).readByte a = s.readByte a := rfl
@[simp] theorem readByte_tick (a : Nat) : s.tick.readByte a = s.readByte a := rfl
@[simp] theorem readByte_setFb (f : Framebuffer) (a : Nat) : (s.setFb f).readByte a = s.readByte a := rfl
@[simp] theorem readByte_setDirty (d : Bool) (a : Nat) : (s.setDirty d).readByte a = s.readByte a := rfl
@[simp] theorem readByte_setKeyTo (k : Nat) (d : Bool) (a : Nat) : (s.setKeyTo k d).readByte a = s.readByte a := rfl
@[simp] theorem readByte_drawn (a : Nat) : s.drawn.readByte a = s.readByte a := rfl
@[simp] theorem readByte_setFlag (b : Byte) (a : Nat) : (s.setFlag b).readByte a = s.readByte a := rfl
@[simp] theorem readByte_flagThen (f : Byte) (x : RegIdx) (g : State → Byte) (a : Nat) : (s.flagThen f x g).readByte a = s.readByte a := rfl

/-- One key changes and the others keep their state (R225). -/
theorem keyDown_setKeyTo (k j : Nat) (d : Bool) (hk : k < 16) :
    (s.setKeyTo k d).keyDown j = if k = j then d else s.keyDown j := by
  unfold State.keyDown State.setKeyTo
  by_cases hj : j < 16
  · simp [Vector.getD, hj, Array.getElem_setIfInBounds]
  · have : k ≠ j := by omega
    simp [Vector.getD, hj, this]

/-- A timer one lower, and 0 stays 0 (R114). -/
@[simp] theorem countDown_toNat (b : Byte) : (countDown b).toNat = b.toNat - 1 := by
  unfold countDown
  split
  · next h => simp [h]
  · next h =>
    have hb : b.toNat ≠ 0 := fun h0 => h (BitVec.eq_of_toNat_eq (by simpa using h0))
    have : b.toNat < 256 := b.isLt
    simp [BitVec.toNat_sub]
    omega

end Sys2Proof.Machine
end

