-- ==== Sys2Proof/Laws/Display.lean ====
section
/-! SUPPORT. The framebuffer: a flip changes one cell, and a sprite row flips the cells its set bits land on. -/

namespace Sys2Proof.Machine

/-- There is no cell outside the grid. -/
theorem cell_outside {fb : Framebuffer} {r c : Nat} (h : ¬ (r < 32 ∧ c < 64)) : Framebuffer.cell fb r c = false :=
  dif_neg h

/-- Every cell of the blank framebuffer is 0 (R191). -/
@[simp] theorem cell_blank (r c : Nat) : Framebuffer.cell Framebuffer.blank r c = false := by
  unfold Framebuffer.cell Framebuffer.blank
  split <;> simp

/-- Framebuffers with the same cells are the same. -/
theorem framebuffer_ext {f g : Framebuffer} (h : ∀ r c, r < 32 → c < 64 → Framebuffer.cell f r c = Framebuffer.cell g r c) :
    f = g := by
  refine Vector.ext fun r hr => Vector.ext fun c hc => ?_
  simpa [Framebuffer.cell, hr, hc] using h r c hr hc

/-- A flip on the grid turns its own cell over and leaves the others (R192). -/
theorem cell_flip {fb : Framebuffer} {r c : Nat} (h : r < 32 ∧ c < 64) (r' c' : Nat) :
    Framebuffer.cell (Framebuffer.flip fb r c) r' c' =
      if r = r' ∧ c = c' then !Framebuffer.cell fb r' c' else Framebuffer.cell fb r' c' := by
  obtain ⟨hr, hc⟩ := h
  by_cases h' : r' < 32 ∧ c' < 64
  · obtain ⟨hr', hc'⟩ := h'
    simp only [Framebuffer.flip, Framebuffer.cell, hr, hc, hr', hc', and_self, dite_true, Vector.getElem_set]
    by_cases h1 : r = r'
    · subst h1
      by_cases h2 : c = c'
      · subst h2; simp
      · simp [h2]
    · simp [h1]
  · rw [cell_outside h', cell_outside h', if_neg (by omega)]

/-- A flip off the grid is clipped (R193 (a)). -/
theorem flip_outside {fb : Framebuffer} {r c : Nat} (h : ¬ (r < 32 ∧ c < 64)) : Framebuffer.flip fb r c = fb := dif_neg h

/-- One plotted pixel, on the grid or off it: what each cell holds afterwards. -/
theorem plot_cell (cv : Canvas) (r c r' c' : Nat) :
    Framebuffer.cell (cv.plot r c).fb r' c' =
      if r = r' ∧ c = c' ∧ r < 32 ∧ c < 64 then !Framebuffer.cell cv.fb r' c' else Framebuffer.cell cv.fb r' c' := by
  by_cases h : r < 32 ∧ c < 64
  · simp [Canvas.plot, cell_flip h, h]
  · have h2 : ¬ (r = r' ∧ c = c' ∧ r < 32 ∧ c < 64) := fun hh => h hh.2.2
    simp only [Canvas.plot, flip_outside h, if_neg h2]

/-- The pixels of a row for the sprite bits below `m`, the bit k landing on column col + k (R192): what each cell holds
afterwards, and whether one of them met a lit cell. -/
theorem drawBits_spec (cv : Canvas) (r col : Nat) (b : Byte) : ∀ m : Nat,
    (∀ r' c', Framebuffer.cell
        ((List.range m).foldl (fun c k => if b.getLsbD (7 - k) then c.plot r (col + k) else c) cv).fb r' c' =
      (Framebuffer.cell cv.fb r' c' ^^
        (decide (r = r' ∧ col ≤ c' ∧ c' - col < m ∧ r < 32 ∧ c' < 64) && b.getLsbD (7 - (c' - col))))) ∧
    (((List.range m).foldl (fun c k => if b.getLsbD (7 - k) then c.plot r (col + k) else c) cv).hit = true ↔
      cv.hit = true ∨ ∃ k < m, b.getLsbD (7 - k) = true ∧ Framebuffer.cell cv.fb r (col + k) = true)
  | 0 => by simp
  | m + 1 => by
    obtain ⟨ihc, ihh⟩ := drawBits_spec cv r col b m
    rw [List.range_succ, List.foldl_append]
    generalize hcv : (List.range m).foldl (fun c k => if b.getLsbD (7 - k) then c.plot r (col + k) else c) cv = w at ihc ihh
    simp only [List.foldl_cons, List.foldl_nil]
    by_cases hb : b.getLsbD (7 - m) = true
    · rw [if_pos hb]
      constructor
      · intro r' c'
        rw [plot_cell, ihc r' c']
        by_cases hp : r = r' ∧ col + m = c' ∧ r < 32 ∧ col + m < 64
        · obtain ⟨rfl, rfl, h3, h4⟩ := hp
          simp [h3, h4, hb]
        · rw [if_neg hp]
          congr 2
          rw [decide_eq_decide]
          omega
      · have hold : Framebuffer.cell w.fb r (col + m) = Framebuffer.cell cv.fb r (col + m) := by
          rw [ihc]; simp
        simp only [Canvas.plot, hold, Bool.or_eq_true, ihh]
        constructor
        · rintro ((h | ⟨k, hk, h⟩) | h)
          · exact .inl h
          · exact .inr ⟨k, by omega, h⟩
          · exact .inr ⟨m, by omega, hb, h⟩
        · rintro (h | ⟨k, hk, h⟩)
          · exact .inl (.inl h)
          · by_cases hkm : k = m
            · subst hkm
              exact .inr h.2
            · exact .inl (.inr ⟨k, by omega, h⟩)
    · rw [if_neg hb]
      constructor
      · intro r' c'
        rw [ihc r' c']
        by_cases hp : c' - col = m
        · simp [hp, hb]
        · congr 2
          rw [decide_eq_decide]
          omega
      · rw [ihh]
        constructor
        · rintro (h | ⟨k, hk, h⟩)
          · exact .inl h
          · exact .inr ⟨k, by omega, h⟩
        · rintro (h | ⟨k, hk, h⟩)
          · exact .inl h
          · refine .inr ⟨k, ?_, h⟩
            by_cases hkm : k = m
            · subst hkm
              exact absurd h.1 hb
            · omega

/-- One sprite byte on row `r` with its bit 7 at column `col` (R192): what each cell holds afterwards, and whether one of its
set bits met a lit cell. -/
theorem drawRow_spec (cv : Canvas) (r col : Nat) (b : Byte) :
    (∀ r' c', Framebuffer.cell (cv.drawRow r col b).fb r' c' =
      (Framebuffer.cell cv.fb r' c' ^^
        (decide (r = r' ∧ col ≤ c' ∧ c' - col < 8 ∧ r < 32 ∧ c' < 64) && b.getLsbD (7 - (c' - col))))) ∧
    ((cv.drawRow r col b).hit = true ↔
      cv.hit = true ∨ ∃ k < 8, b.getLsbD (7 - k) = true ∧ Framebuffer.cell cv.fb r (col + k) = true) :=
  drawBits_spec cv r col b 8

/-- The bit of a sprite's bytes, the first with its bit 7 at (row, col), that lands on the cell (r, c); false off the grid. -/
def spriteCell (bs : List Byte) (row col : Nat) (r c : Nat) : Bool :=
  decide (row ≤ r ∧ r < row + bs.length ∧ col ≤ c ∧ c < col + 8 ∧ r < 32 ∧ c < 64) && (bs.getD (r - row) 0).getLsbD (7 - (c - col))

/-- All the sprite's bytes (R192, R194 (a), (b)): each cell is exclusive-or'd with the bit that lands on it, and there is a hit
exactly when a set bit met a lit cell. -/
theorem drawRows_spec : ∀ (bs : List Byte) (cv : Canvas) (row col : Nat),
    (∀ r c, Framebuffer.cell (cv.drawRows row col bs).fb r c = (Framebuffer.cell cv.fb r c ^^ spriteCell bs row col r c)) ∧
    ((cv.drawRows row col bs).hit = true ↔ (cv.hit = true ∨ ∃ r c, Framebuffer.cell cv.fb r c = true ∧ spriteCell bs row col r c = true))
  | [], cv, row, col => by
    constructor
    · intro r c
      have : spriteCell [] row col r c = false := by
        simp [spriteCell]
      simp [Canvas.drawRows, this]
    · simp [Canvas.drawRows, spriteCell]
  | b :: bs, cv, row, col => by
    obtain ⟨i1, i2⟩ := drawRows_spec bs (cv.drawRow row col b) (row+1) col
    obtain ⟨j1, j2⟩ := drawRow_spec cv row col b
    have split : ∀ r c, spriteCell (b :: bs) row col r c =
        if r = row then (decide (row = r ∧ col ≤ c ∧ c - col < 8 ∧ row < 32 ∧ c < 64) && b.getLsbD (7 - (c - col)))
        else spriteCell bs (row+1) col r c := by
      intro r c
      by_cases hr : r = row
      · subst hr
        rw [if_pos rfl]
        simp only [spriteCell, Nat.sub_self, List.getD_cons_zero, List.length_cons]
        congr 1
        rw [decide_eq_decide]
        constructor
        · rintro ⟨_, _, h3, h4, h5, h6⟩; exact ⟨trivial, h3, by omega, h5, h6⟩
        · rintro ⟨_, h3, h4, h5, h6⟩; exact ⟨le_refl _, by omega, h3, by omega, h5, h6⟩
      · rw [if_neg hr]
        by_cases hlt : row < r
        · have : r - row = (r - (row+1)) + 1 := by omega
          simp only [spriteCell, this, List.getD_cons_succ, List.length_cons]
          congr 1
          rw [decide_eq_decide]; omega
        · have h1 : ¬ row ≤ r := by omega
          have h2 : ¬ row + 1 ≤ r := by omega
          simp [spriteCell, h1, h2]
    have zero : ∀ c, spriteCell bs (row+1) col row c = false := by
      intro c; simp [spriteCell]
    constructor
    · intro r c
      simp only [Canvas.drawRows]
      rw [i1, j1, split]
      by_cases hr : r = row
      · subst hr; rw [if_pos rfl, zero]; simp
      · rw [if_neg hr]; simp [Ne.symm hr]
    · simp only [Canvas.drawRows]
      rw [i2, j2]
      constructor
      · rintro ((h | ⟨k, hk, hb, hc⟩) | ⟨r, c, h1, h2⟩)
        · exact .inl h
        · right
          refine ⟨row, col + k, hc, ?_⟩
          rw [split, if_pos rfl]
          have : row < 32 ∧ col + k < 64 := by
            by_contra hh; rw [cell_outside hh] at hc; exact absurd hc (by decide)
          simp [hk, hb, this]
        · right
          have hr : r ≠ row := by rintro rfl; rw [zero] at h2; exact absurd h2 (by decide)
          refine ⟨r, c, ?_, ?_⟩
          · rw [j1] at h1; simpa [Ne.symm hr] using h1
          · rw [split, if_neg hr]; exact h2
      · rintro (h | ⟨r, c, h1, h2⟩)
        · exact .inl (.inl h)
        · rw [split] at h2
          by_cases hr : r = row
          · subst hr
            rw [if_pos rfl] at h2
            simp at h2
            left; right
            refine ⟨c - col, by omega, h2.2, ?_⟩
            rw [show col + (c - col) = c by omega]; exact h1
          · rw [if_neg hr] at h2
            right
            refine ⟨r, c, ?_, h2⟩
            rw [j1]; simpa [Ne.symm hr] using h1

end Sys2Proof.Machine
end

