-- ==== Sys2Proof/Laws/Memory.lean ====
section
/-! SUPPORT. Memory: a read after a write, and the canonical form that every memory operation keeps. -/

namespace Sys2Proof.Machine

/-- Everything a read says after a cell is put in front of a list in which its address is not listed. -/
theorem memRead_memCons (p : Params) (a : Nat) (b : Byte) (m : Memory) (c : Nat)
    (hout : memRead p m a = resetByte p a) :
    memRead p (memCons p a b m) c = if a = c then b else memRead p m c := by
  unfold memCons
  split
  · next h => subst h; split <;> simp_all
  · rfl

/-- An address below every listed one reads as its reset contents. -/
theorem memRead_of_lt (p : Params) (a : Nat) : ∀ m : Memory, (∀ c ∈ m, a < c.1) → memRead p m a = resetByte p a
  | [], _ => rfl
  | (c, b) :: rest, h => by
    have hc : a < c := h (c, b) (by simp)
    simp only [memRead]
    rw [if_neg (by omega)]
    exact memRead_of_lt p a rest fun x hx => h x (by simp [hx])

/-- The parts of the canonical form of a list with a first cell. -/
theorem wf_cons {p : Params} {a : Nat} {b : Byte} {m : Memory} :
    Memory.wf p ((a, b) :: m) = true ↔
      a < 4096 ∧ b ≠ resetByte p a ∧ (∀ c ∈ m, a < c.1) ∧ Memory.wf p m = true := by
  simp [Memory.wf, and_assoc]

/-- A cell in front keeps the canonical form when its address is in memory and below the rest. -/
theorem memCons_wf {p : Params} {a : Nat} {b : Byte} {m : Memory} (ha : a < 4096) (hlt : ∀ c ∈ m, a < c.1)
    (hm : Memory.wf p m = true) : Memory.wf p (memCons p a b m) = true := by
  unfold memCons
  split
  · exact hm
  · next h => exact wf_cons.mpr ⟨ha, h, hlt, hm⟩

/-- A write lists no address but its own and those listed before. -/
theorem memWrite_addresses {p : Params} {a : Nat} {b : Byte} :
    ∀ {m : Memory} {c : Host.Cell}, c ∈ memWrite p a b m → c.1 = a ∨ c ∈ m
  | [], c, h => by
    unfold memWrite memCons at h
    split at h <;> simp_all
  | (d, e) :: rest, c, h => by
    unfold memWrite at h
    split at h
    · unfold memCons at h
      split at h <;> simp_all
      rcases h with h | h <;> simp [h]
    · split at h
      · unfold memCons at h
        split at h <;> simp_all
        rcases h with h | h <;> simp [h]
      · rcases List.mem_cons.mp h with h | h
        · simp [h]
        · rcases memWrite_addresses h with h | h <;> simp [h]

/-- `MEM[a] <- b` keeps the canonical form. -/
theorem memWrite_wf {p : Params} {a : Nat} {b : Byte} (ha : a < 4096) :
    ∀ {m : Memory}, Memory.wf p m = true → Memory.wf p (memWrite p a b m) = true
  | [], _ => memCons_wf ha (by simp) rfl
  | (d, e) :: rest, h => by
    obtain ⟨hd, he, hlt, hrest⟩ := wf_cons.mp h
    unfold memWrite
    split
    · next hda =>
      refine memCons_wf ha ?_ h
      intro c hc
      rcases List.mem_cons.mp hc with rfl | hc
      · exact hda
      · exact hda.trans (hlt c hc)
    · split
      · next hda => subst hda; exact memCons_wf ha hlt hrest
      · refine wf_cons.mpr ⟨hd, he, ?_, memWrite_wf ha hrest⟩
        intro c hc
        rcases memWrite_addresses hc with h | h
        · omega
        · exact hlt c h

/-- A read after a write: the byte written at its address, every other address as before (R54). -/
theorem memRead_memWrite {p : Params} {a : Nat} {b : Byte} :
    ∀ {m : Memory}, Memory.wf p m = true → ∀ c, memRead p (memWrite p a b m) c = if a = c then b else memRead p m c
  | [], _, c => memRead_memCons p a b [] c rfl
  | (d, e) :: rest, h, c => by
    obtain ⟨_, _, hlt, hrest⟩ := wf_cons.mp h
    unfold memWrite
    split
    · next had =>
      refine memRead_memCons p a b _ c (memRead_of_lt p a _ ?_)
      intro x hx
      rcases List.mem_cons.mp hx with rfl | hx
      · exact had
      · exact had.trans (hlt x hx)
    · split
      · next had =>
        subst had
        rw [memRead_memCons p a b rest c (memRead_of_lt p a rest hlt)]
        simp only [memRead]
        split <;> rfl
      · simp only [memRead]
        rw [memRead_memWrite hrest c]
        split
        · next hdc => subst hdc; rw [if_neg (by omega)]
        · rfl

/-- Bytes written inside memory keep the canonical form. -/
theorem memWriteBytes_wf {p : Params} : ∀ {bs : List Byte} {a : Nat} {m : Memory}, a + bs.length ≤ 4096 →
    Memory.wf p m = true → Memory.wf p (memWriteBytes p a bs m) = true
  | [], _, _, _, h => h
  | b :: bs, a, m, hlen, h => by
    simp only [List.length_cons] at hlen
    have hw : Memory.wf p (memWrite p a b m) = true := memWrite_wf (by omega) h
    simpa only [memWriteBytes] using memWriteBytes_wf (a := a + 1) (by omega) hw

/-- A read after bytes were written: the byte written there, every other address as before (R53, R54). -/
theorem memRead_memWriteBytes {p : Params} : ∀ {bs : List Byte} {a : Nat} {m : Memory}, a + bs.length ≤ 4096 →
    Memory.wf p m = true → ∀ c, memRead p (memWriteBytes p a bs m) c =
      if a ≤ c then (bs[c - a]?).getD (memRead p m c) else memRead p m c
  | [], _, _, _, _, c => by simp [memWriteBytes]
  | b :: bs, a, m, hlen, h, c => by
    simp only [List.length_cons] at hlen
    simp only [memWriteBytes]
    rw [memRead_memWriteBytes (by omega) (memWrite_wf (by omega) h) c, memRead_memWrite h c]
    by_cases hac : a = c
    · subst hac; simp
    · by_cases hlt : a ≤ c
      · have h1 : a + 1 ≤ c := by omega
        have h2 : c - a = c - (a + 1) + 1 := by omega
        rw [if_pos h1, if_pos hlt, if_neg hac, h2, List.getElem?_cons_succ]
      · rw [if_neg (by omega), if_neg hlt, if_neg hac]

/-- Outside the bytes written, every address reads as before. -/
theorem memRead_memWriteBytes_outside {p : Params} {bs : List Byte} {a : Nat} {m : Memory} (hlen : a + bs.length ≤ 4096)
    (h : Memory.wf p m = true) {c : Nat} (hc : c < a ∨ a + bs.length ≤ c) :
    memRead p (memWriteBytes p a bs m) c = memRead p m c := by
  rw [memRead_memWriteBytes hlen h]
  split
  · next hac =>
    rw [List.getElem?_eq_none (by omega)]
    rfl
  · rfl

@[simp] theorem memReadBytes_length (p : Params) (m : Memory) : ∀ (n a : Nat), (memReadBytes p m a n).length = n
  | 0, _ => rfl
  | n + 1, a => by simp [memReadBytes, memReadBytes_length p m n]

/-- The k-th of the bytes read is the byte at `a + k` (R53). -/
theorem memReadBytes_getElem? (p : Params) (m : Memory) :
    ∀ (n a k : Nat), (memReadBytes p m a n)[k]? = if k < n then some (memRead p m (a + k)) else none
  | 0, _, _ => by simp [memReadBytes]
  | n + 1, a, 0 => by simp [memReadBytes]
  | n + 1, a, k + 1 => by
    simp only [memReadBytes, List.getElem?_cons_succ]
    rw [memReadBytes_getElem? p m n (a + 1) k]
    simp only [Nat.add_lt_add_iff_right, Nat.add_assoc, Nat.add_comm 1 k]

/-- What the registers hold after a load of bytes from register k on (R176). -/
theorem loadRegs_getElem : ∀ (bs : List Byte) (v : Vector Byte 16) (k j : Nat) (hj : j < 16),
    (loadRegs v k bs)[j] = if k ≤ j then (bs[j - k]?).getD v[j] else v[j]
  | [], _, _, _, _ => by simp [loadRegs]
  | b :: bs, v, k, j, hj => by
    simp only [loadRegs]
    rw [loadRegs_getElem bs _ (k + 1) j hj, Vector.getElem_setIfInBounds hj]
    by_cases hkj : k = j
    · subst hkj; simp
    · by_cases hlt : k ≤ j
      · have h2 : j - k = j - (k + 1) + 1 := by omega
        rw [if_pos (by omega), if_neg hkj, if_pos hlt, h2, List.getElem?_cons_succ]
      · rw [if_neg (by omega), if_neg hkj, if_neg hlt]

/-- A byte of the state after bytes were written (R10, R54). -/
theorem readByte_writeBytes {s : State} {a : Nat} {bs : List Byte} (hlen : a + bs.length ≤ 4096)
    (hm : Memory.wf s.params s.mem = true) (c : Nat) :
    (s.writeBytes a bs).readByte c = if a ≤ c then (bs[c - a]?).getD (s.readByte c) else s.readByte c :=
  memRead_memWriteBytes hlen hm c

@[simp] theorem regsUpTo_length (s : State) (x : RegIdx) : (s.regsUpTo x).length = x.val + 1 := by
  simp [State.regsUpTo]

/-- The k-th byte that FX55 stores is V[k] (R175). -/
theorem regsUpTo_getElem? (s : State) {x k : RegIdx} (h : k ≤ x) : (s.regsUpTo x)[k.val]? = some (s.reg k) := by
  simp [State.regsUpTo, State.reg, List.getElem?_take]
  exact h

/-- What each register holds after FX65's load of the bytes at `a` (R176). -/
theorem reg_loadBytes (s : State) (a : Nat) (x r : RegIdx) :
    (s.setRegs (loadRegs s.v 0 (s.readBytes a (x.val + 1)))).reg r =
      if r ≤ x then s.readByte (a + r.val) else s.reg r := by
  simp only [State.reg, setRegs_v, State.readBytes, State.readByte]
  rw [loadRegs_getElem]
  simp only [memReadBytes_getElem?]
  by_cases h : r ≤ x
  · have : r.val < x.val + 1 := Nat.lt_succ_of_le h
    simp [h]
  · simp [h]

end Sys2Proof.Machine
end

