-- ==== Sys2Proof/Laws/PerInstr.lean ====
section
/-! SUPPORT. One fact about every instruction as syntax, a lemma for each constructor: it is well formed, and the word it
encodes to is one of its own row's (spec 30_encoding.md R85, R94). -/

namespace Sys2Proof.Laws

/-- A match value and fields that the mask hides: the word matches. -/
theorem row_of_fields {m mask p : Word} (hm : m &&& mask = m) (hp : p &&& mask = 0) : (m ||| p) &&& mask = m := by
  have h : (m ||| p) &&& mask = (m &&& mask) ||| (p &&& mask) := by
    ext i hi
    simp [Bool.and_or_distrib_right]
  rw [h, hm, hp]
  simp

theorem nnn_hidden : ∀ a : BitVec 12, (Fields.mk 0 0 0 0 a.toNat).place &&& 0xF000#16 = 0 := by decide

theorem xnn_hidden : ∀ (x : Fin 16) (b : Byte), (Fields.mk x.val 0 0 b.toNat 0).place &&& 0xF000#16 = 0 := by decide

theorem xy_hidden : ∀ x y : Fin 16, (Fields.mk x.val y.val 0 0 0).place &&& 0xF00F#16 = 0 := by decide

theorem xyn_hidden : ∀ x y n : Fin 16, (Fields.mk x.val y.val n.val 0 0).place &&& 0xF000#16 = 0 := by decide

theorem x_hidden : ∀ x : Fin 16, (Fields.mk x.val 0 0 0 0).place &&& 0xF0FF#16 = 0 := by decide

theorem nnn_fits (a : BitVec 12) : Format.nnn.admits (Fields.mk 0 0 0 0 a.toNat) = true := by
  simp [Format.admits]
  omega

theorem xnn_fits (x : Fin 16) (b : Byte) : Format.xnn.admits (Fields.mk x.val 0 0 b.toNat 0) = true := by
  simp [Format.admits]
  omega

theorem xy_fits (x y : Fin 16) : Format.xy.admits (Fields.mk x.val y.val 0 0 0) = true := by
  simp [Format.admits]
  omega

theorem xyn_fits (x y n : Fin 16) : Format.xyn.admits (Fields.mk x.val y.val n.val 0 0) = true := by
  simp [Format.admits]
  omega

theorem x_fits (x : Fin 16) : Format.x.admits (Fields.mk x.val 0 0 0 0) = true := by
  simp [Format.admits]
  omega

namespace RowEncoding

/-- The instruction is well formed, and its word matches its row. -/
def Statement (i : Instr) : Prop := i.wf = true ∧ encode i &&& i.format.mask = i.matchBits

theorem clearScreen : Statement (.clearScreen) := ⟨rfl, by decide⟩
theorem ret : Statement (.ret) := ⟨rfl, by decide⟩
theorem jump (nnn : BitVec 12) : Statement (.jump nnn) :=
  ⟨nnn_fits nnn, row_of_fields (m := 0x1000#16) (mask := 0xF000#16) (by decide) (nnn_hidden nnn)⟩
theorem call (nnn : BitVec 12) : Statement (.call nnn) :=
  ⟨nnn_fits nnn, row_of_fields (m := 0x2000#16) (mask := 0xF000#16) (by decide) (nnn_hidden nnn)⟩
theorem skipEqImm (x : RegIdx) (nn : Byte) : Statement (.skipEqImm x nn) :=
  ⟨xnn_fits x nn, row_of_fields (m := 0x3000#16) (mask := 0xF000#16) (by decide) (xnn_hidden x nn)⟩
theorem skipNeImm (x : RegIdx) (nn : Byte) : Statement (.skipNeImm x nn) :=
  ⟨xnn_fits x nn, row_of_fields (m := 0x4000#16) (mask := 0xF000#16) (by decide) (xnn_hidden x nn)⟩
theorem skipEqReg (x y : RegIdx) : Statement (.skipEqReg x y) :=
  ⟨xy_fits x y, row_of_fields (m := 0x5000#16) (mask := 0xF00F#16) (by decide) (xy_hidden x y)⟩
theorem loadImm (x : RegIdx) (nn : Byte) : Statement (.loadImm x nn) :=
  ⟨xnn_fits x nn, row_of_fields (m := 0x6000#16) (mask := 0xF000#16) (by decide) (xnn_hidden x nn)⟩
theorem addImm (x : RegIdx) (nn : Byte) : Statement (.addImm x nn) :=
  ⟨xnn_fits x nn, row_of_fields (m := 0x7000#16) (mask := 0xF000#16) (by decide) (xnn_hidden x nn)⟩
theorem move (x y : RegIdx) : Statement (.move x y) :=
  ⟨xy_fits x y, row_of_fields (m := 0x8000#16) (mask := 0xF00F#16) (by decide) (xy_hidden x y)⟩
theorem orReg (x y : RegIdx) : Statement (.orReg x y) :=
  ⟨xy_fits x y, row_of_fields (m := 0x8001#16) (mask := 0xF00F#16) (by decide) (xy_hidden x y)⟩
theorem andReg (x y : RegIdx) : Statement (.andReg x y) :=
  ⟨xy_fits x y, row_of_fields (m := 0x8002#16) (mask := 0xF00F#16) (by decide) (xy_hidden x y)⟩
theorem xorReg (x y : RegIdx) : Statement (.xorReg x y) :=
  ⟨xy_fits x y, row_of_fields (m := 0x8003#16) (mask := 0xF00F#16) (by decide) (xy_hidden x y)⟩
theorem addReg (x y : RegIdx) : Statement (.addReg x y) :=
  ⟨xy_fits x y, row_of_fields (m := 0x8004#16) (mask := 0xF00F#16) (by decide) (xy_hidden x y)⟩
theorem subReg (x y : RegIdx) : Statement (.subReg x y) :=
  ⟨xy_fits x y, row_of_fields (m := 0x8005#16) (mask := 0xF00F#16) (by decide) (xy_hidden x y)⟩
theorem shiftRight (x y : RegIdx) : Statement (.shiftRight x y) :=
  ⟨xy_fits x y, row_of_fields (m := 0x8006#16) (mask := 0xF00F#16) (by decide) (xy_hidden x y)⟩
theorem subReverse (x y : RegIdx) : Statement (.subReverse x y) :=
  ⟨xy_fits x y, row_of_fields (m := 0x8007#16) (mask := 0xF00F#16) (by decide) (xy_hidden x y)⟩
theorem shiftLeft (x y : RegIdx) : Statement (.shiftLeft x y) :=
  ⟨xy_fits x y, row_of_fields (m := 0x800E#16) (mask := 0xF00F#16) (by decide) (xy_hidden x y)⟩
theorem skipNeReg (x y : RegIdx) : Statement (.skipNeReg x y) :=
  ⟨xy_fits x y, row_of_fields (m := 0x9000#16) (mask := 0xF00F#16) (by decide) (xy_hidden x y)⟩
theorem loadIndex (nnn : BitVec 12) : Statement (.loadIndex nnn) :=
  ⟨nnn_fits nnn, row_of_fields (m := 0xA000#16) (mask := 0xF000#16) (by decide) (nnn_hidden nnn)⟩
theorem jumpOffset (nnn : BitVec 12) : Statement (.jumpOffset nnn) :=
  ⟨nnn_fits nnn, row_of_fields (m := 0xB000#16) (mask := 0xF000#16) (by decide) (nnn_hidden nnn)⟩
theorem randomAnd (x : RegIdx) (nn : Byte) : Statement (.randomAnd x nn) :=
  ⟨xnn_fits x nn, row_of_fields (m := 0xC000#16) (mask := 0xF000#16) (by decide) (xnn_hidden x nn)⟩
theorem drawSprite (x y n : Fin 16) : Statement (.drawSprite x y n) :=
  ⟨xyn_fits x y n, row_of_fields (m := 0xD000#16) (mask := 0xF000#16) (by decide) (xyn_hidden x y n)⟩
theorem skipIfPressed (x : RegIdx) : Statement (.skipIfPressed x) :=
  ⟨x_fits x, row_of_fields (m := 0xE09E#16) (mask := 0xF0FF#16) (by decide) (x_hidden x)⟩
theorem skipIfNotPressed (x : RegIdx) : Statement (.skipIfNotPressed x) :=
  ⟨x_fits x, row_of_fields (m := 0xE0A1#16) (mask := 0xF0FF#16) (by decide) (x_hidden x)⟩
theorem readDelay (x : RegIdx) : Statement (.readDelay x) :=
  ⟨x_fits x, row_of_fields (m := 0xF007#16) (mask := 0xF0FF#16) (by decide) (x_hidden x)⟩
theorem awaitKey (x : RegIdx) : Statement (.awaitKey x) :=
  ⟨x_fits x, row_of_fields (m := 0xF00A#16) (mask := 0xF0FF#16) (by decide) (x_hidden x)⟩
theorem setDelay (x : RegIdx) : Statement (.setDelay x) :=
  ⟨x_fits x, row_of_fields (m := 0xF015#16) (mask := 0xF0FF#16) (by decide) (x_hidden x)⟩
theorem setSound (x : RegIdx) : Statement (.setSound x) :=
  ⟨x_fits x, row_of_fields (m := 0xF018#16) (mask := 0xF0FF#16) (by decide) (x_hidden x)⟩
theorem addToIndex (x : RegIdx) : Statement (.addToIndex x) :=
  ⟨x_fits x, row_of_fields (m := 0xF01E#16) (mask := 0xF0FF#16) (by decide) (x_hidden x)⟩
theorem fontAddress (x : RegIdx) : Statement (.fontAddress x) :=
  ⟨x_fits x, row_of_fields (m := 0xF029#16) (mask := 0xF0FF#16) (by decide) (x_hidden x)⟩
theorem bcdStore (x : RegIdx) : Statement (.bcdStore x) :=
  ⟨x_fits x, row_of_fields (m := 0xF033#16) (mask := 0xF0FF#16) (by decide) (x_hidden x)⟩
theorem registerDump (x : RegIdx) : Statement (.registerDump x) :=
  ⟨x_fits x, row_of_fields (m := 0xF055#16) (mask := 0xF0FF#16) (by decide) (x_hidden x)⟩
theorem registerLoad (x : RegIdx) : Statement (.registerLoad x) :=
  ⟨x_fits x, row_of_fields (m := 0xF065#16) (mask := 0xF0FF#16) (by decide) (x_hidden x)⟩

end RowEncoding

end Sys2Proof.Laws
end

