-- ==== Sys2Proof/Laws/Step.lean ====
section
/-! SUPPORT. What the shared operations around a handler can answer, and what a Step can do. -/

namespace Sys2Proof.Machine

/-- When a data access is legal (R58, R193 (c)). -/
theorem accessLegal_iff {a n : Nat} : accessLegal a n = true ↔ n = 0 ∨ a + n - 1 ≤ 4095 := by simp [accessLegal]

/-- When a fetch is legal (R111). -/
theorem fetchLegal_iff {s : State} : s.fetchLegal = true ↔ s.pc.toNat ≤ 4094 := by simp [State.fetchLegal]

/-- The key that `await-key` stores: the least one pressed (R203). -/
theorem firstKey_eq_some {s : State} {k : Nat} :
    s.firstKey = some k ↔ k < 16 ∧ s.keyDown k = true ∧ ∀ j < k, s.keyDown j = false := by
  simp only [State.firstKey]
  rw [List.find?_range_eq_some]
  simp [List.mem_range]
  tauto

/-- When `await-key` waits: no key is pressed (R203). -/
theorem firstKey_eq_none {s : State} : s.firstKey = none ↔ ∀ k < 16, s.keyDown k = false := by
  simp [State.firstKey]

/-- A checked access answers a next state exactly when it is legal, and then the one given (R58, R170). -/
theorem checkedAccess_eq_next {a n : Nat} {s' t : State} :
    checkedAccess a n s' = .next t ↔ accessLegal a n = true ∧ t = s' := by
  unfold checkedAccess raiseFault
  split
  · next h => simp [h, eq_comm]
  · next h => simp [h]

/-- The only other answer of a checked access (R243). -/
theorem checkedAccess_eq_fault {a n : Nat} {s' : State} {f : Fault} :
    checkedAccess a n s' = .fault f ↔ accessLegal a n = false ∧ f = .memOutOfBounds := by
  unfold checkedAccess raiseFault
  split
  · next h => simp [h]
  · next h => simp [h, eq_comm]

/-- A key instruction goes on exactly when the key index is at most 15 (R246). -/
theorem withKeyIndex_eq_next {k : Byte} {s' t : State} : withKeyIndex k s' = .next t ↔ k.toNat ≤ 15 ∧ t = s' := by
  unfold withKeyIndex raiseFault
  split
  · next h => simp; omega
  · next h => simp [eq_comm]; omega

/-- The only other answer of a key instruction (R246). -/
theorem withKeyIndex_eq_fault {k : Byte} {s' : State} {f : Fault} :
    withKeyIndex k s' = .fault f ↔ 15 < k.toNat ∧ f = .keyIndexRange := by
  unfold withKeyIndex raiseFault
  split
  · next h => simp [eq_comm]; omega
  · next h => simp; omega

/-- The stack fits when it holds no more entries than a bounded STACK_DEPTH (R38 (b)). -/
theorem stackFits_iff {p : Params} {n : Nat} : stackFits p n = true ↔ ∀ d, p.stackDepth = some d → n ≤ d := by
  unfold stackFits
  split <;> simp [*]

/-- The stack has room when it holds fewer entries than a bounded STACK_DEPTH (R29). -/
theorem stackHasRoom_iff {p : Params} {n : Nat} : stackHasRoom p n = true ↔ ∀ d, p.stackDepth = some d → n < d := by
  unfold stackHasRoom
  split <;> simp [*]

/-- `finishStep` answers a next state exactly when the handler did, ticked (R110, R114). -/
theorem finishStep_eq_next {r : Result} {t : State} : finishStep r = .next t ↔ ∃ u, r = .next u ∧ t = u.tick := by
  cases r <;> simp [finishStep, eq_comm]

/-- `finishStep` passes a fault on (R11). -/
theorem finishStep_eq_fault {r : Result} {f : Fault} : finishStep r = .fault f ↔ r = .fault f := by
  cases r <;> simp [finishStep]

/-- `finishStep` passes a refusal on. -/
theorem finishStep_eq_refused {r : Result} {q : Refusal} : finishStep r = .refused q ↔ r = .refused q := by
  cases r <;> simp [finishStep]

/-- A Step that cannot fetch (R111). -/
theorem step_of_not_fetchLegal {s : State} (h : s.fetchLegal = false) : step s = .fault .fetchOutOfBounds := by
  simp [step, h, raiseFault]

/-- A Step that fetches an instruction (R110). -/
theorem step_of_decode {s : State} {i : Instr} (h : s.fetchLegal = true) (hd : decodeWord s.fetchWord = .ok i) :
    step s = finishStep (exec i s) := by
  simp [step, h, hd]

/-- A Step that fetches an unknown opcode (R115). -/
theorem step_of_unknown {s : State} {e : DecodeError} (h : s.fetchLegal = true)
    (hd : decodeWord s.fetchWord = .error e) : step s = .next s.advance.tick := by
  simp [step, h, hd, execUnknown, finishStep]

/-- Everything a Step that commits can be: an instruction's handler, or an unknown opcode, and then the timers. -/
theorem step_cases {s t : State} (h : step s = .next t) :
    s.fetchLegal = true ∧
      ((∃ i u, decodeWord s.fetchWord = .ok i ∧ exec i s = .next u ∧ t = u.tick) ∨
       (∃ e, decodeWord s.fetchWord = .error e ∧ t = s.advance.tick)) := by
  by_cases hf : s.fetchLegal = true
  · refine ⟨hf, ?_⟩
    cases hd : decodeWord s.fetchWord with
    | ok i =>
      rw [step_of_decode hf hd] at h
      obtain ⟨u, hu, ht⟩ := finishStep_eq_next.mp h
      exact .inl ⟨i, u, rfl, hu, ht⟩
    | error e =>
      rw [step_of_unknown hf hd] at h
      exact .inr ⟨e, rfl, by simpa [eq_comm] using h⟩
  · rw [step_of_not_fetchLegal (by simpa using hf)] at h
    simp at h

/-- The status of a handler that did not fault: OK, but for `await-key` with no key pressed (R110, R241). -/
theorem handlerStatus_eq (i : Instr) (s : State) :
    handlerStatus i s = if (∃ x, i = .awaitKey x) ∧ s.firstKey = none then .waitingKey else .ok := by
  cases i <;> simp [handlerStatus]

/-- The status of a Step whose instruction completes is its handler's (R110, R116). -/
theorem stepStatus_of_exec {s u : State} {i : Instr} (h : s.fetchLegal = true) (hd : decodeWord s.fetchWord = .ok i)
    (hu : exec i s = .next u) : stepStatus s = handlerStatus i s := by
  simp [stepStatus, step_of_decode h hd, hu, finishStep, hd]

/-- Everything the handler of `call` can answer with a next state (R132). -/
theorem execCall_eq_next {nnn : BitVec 12} {s t : State} : execCall nnn s = .next t ↔
    stackHasRoom s.params s.sp = true ∧ t = (s.push s.pc).setPc (zextAddr nnn) := by
  unfold execCall raiseFault
  split
  · next h => simp [h, eq_comm]
  · next h => simp [h]

/-- Everything the handler of `return` can answer with a next state (R133). -/
theorem execRet_eq_next {s t : State} : execRet s = .next t ↔
    ∃ r rest, s.stack = r :: rest ∧ t = (s.setStack rest).setPc (r + 2) := by
  unfold execRet raiseFault
  split
  · next h => simp [h]
  · next r rest h => simp [h, eq_comm]

/-- Everything the handler of `await-key` can answer (R203). -/
theorem execAwaitKey_eq_next {x : RegIdx} {s t : State} : execAwaitKey x s = .next t ↔
    (∃ k, s.firstKey = some k ∧ t = (s.setReg x (BitVec.ofNat 8 k)).advance) ∨ (s.firstKey = none ∧ t = s) := by
  unfold execAwaitKey
  split
  · next k h => simp [h, eq_comm]
  · next h => simp [h, eq_comm]

end Sys2Proof.Machine
end

