-- ==== Sys2Proof/Tests/Slice0.lean ====
section
/-! SUPPORT. Tests. First what WellFormed refuses; then one word of every instruction, written out from the encodings of
spec 30_encoding.md R86, decoded; then one Step of each instruction, with the expected values of 95_test_vectors.md (the
vector's id stands in the theorem's name); last, for every obligation with hypotheses, a state that meets them. -/

namespace Sys2Proof.Tests

open Sys2Proof.Machine Sys2Proof.Claims

/-! ### WellFormed refuses each ill-formed term -/

theorem test_wf_fixed : Format.fixed.admits {} = true ∧ Format.fixed.admits { x := 1 } = false ∧
    Format.fixed.admits { y := 1 } = false ∧ Format.fixed.admits { n := 1 } = false ∧
    Format.fixed.admits { nn := 1 } = false ∧ Format.fixed.admits { nnn := 1 } = false := by decide

theorem test_wf_nnn : Format.nnn.admits { nnn := 4095 } = true ∧ Format.nnn.admits { nnn := 4096 } = false ∧
    Format.nnn.admits { x := 1 } = false ∧ Format.nnn.admits { y := 1 } = false ∧ Format.nnn.admits { n := 1 } = false ∧
    Format.nnn.admits { nn := 1 } = false := by decide

theorem test_wf_xnn : Format.xnn.admits { x := 15, nn := 255 } = true ∧ Format.xnn.admits { x := 16 } = false ∧
    Format.xnn.admits { nn := 256 } = false ∧ Format.xnn.admits { y := 1 } = false ∧ Format.xnn.admits { n := 1 } = false ∧
    Format.xnn.admits { nnn := 1 } = false := by decide

theorem test_wf_xy : Format.xy.admits { x := 15, y := 15 } = true ∧ Format.xy.admits { x := 16 } = false ∧
    Format.xy.admits { y := 16 } = false ∧ Format.xy.admits { n := 1 } = false ∧ Format.xy.admits { nn := 1 } = false ∧
    Format.xy.admits { nnn := 1 } = false := by decide

theorem test_wf_xyn : Format.xyn.admits { x := 15, y := 15, n := 15 } = true ∧ Format.xyn.admits { x := 16 } = false ∧
    Format.xyn.admits { y := 16 } = false ∧ Format.xyn.admits { n := 16 } = false ∧ Format.xyn.admits { nn := 1 } = false ∧
    Format.xyn.admits { nnn := 1 } = false := by decide

theorem test_wf_x : Format.x.admits { x := 15 } = true ∧ Format.x.admits { x := 16 } = false ∧
    Format.x.admits { y := 1 } = false ∧ Format.x.admits { n := 1 } = false ∧ Format.x.admits { nn := 1 } = false ∧
    Format.x.admits { nnn := 1 } = false := by decide

theorem test_wf_params : defaultParams.wf = true ∧ { defaultParams with stackDepth := none }.wf = true ∧
    { defaultParams with stackDepth := some 0 }.wf = false ∧ { defaultParams with fontBase := 432 }.wf = true ∧
    { defaultParams with fontBase := 433 }.wf = false ∧ { defaultParams with fontData := [] }.wf = false := by decide

theorem test_wf_memory : Memory.wf defaultParams [(0x300, 1), (0x301, 2)] = true ∧
    Memory.wf defaultParams [(4096, 1)] = false ∧ Memory.wf defaultParams [(0x300, 0)] = false ∧
    Memory.wf defaultParams [(0, 0xF0)] = false ∧ Memory.wf defaultParams [(0x301, 1), (0x300, 1)] = false := by decide

/-! ### Decoding: a word of every row of R86, its nibbles written out by hand -/

theorem test_decode_family_0 : decodeWord 0x00E0 = .ok .clearScreen ∧ decodeWord 0x00EE = .ok .ret := by decide
theorem test_decode_flow : decodeWord 0x1ABC = .ok (.jump 0xABC) ∧ decodeWord 0x2FFF = .ok (.call 0xFFF) ∧
    decodeWord 0xB210 = .ok (.jumpOffset 0x210) := by decide
theorem test_decode_skips : decodeWord 0x332A = .ok (.skipEqImm 3 0x2A) ∧ decodeWord 0x4F01 = .ok (.skipNeImm 15 1) ∧
    decodeWord 0x5120 = .ok (.skipEqReg 1 2) ∧ decodeWord 0x9340 = .ok (.skipNeReg 3 4) := by decide
theorem test_decode_immediates : decodeWord 0x6A7F = .ok (.loadImm 0xA 0x7F) ∧ decodeWord 0x7205 = .ok (.addImm 2 5) ∧
    decodeWord 0xC30F = .ok (.randomAnd 3 0x0F) := by decide
theorem test_decode_alu_low : decodeWord 0x8120 = .ok (.move 1 2) ∧ decodeWord 0x8341 = .ok (.orReg 3 4) ∧
    decodeWord 0x8562 = .ok (.andReg 5 6) ∧ decodeWord 0x8783 = .ok (.xorReg 7 8) ∧
    decodeWord 0x89A4 = .ok (.addReg 9 0xA) := by decide
theorem test_decode_alu_high : decodeWord 0x8BC5 = .ok (.subReg 0xB 0xC) ∧ decodeWord 0x8DE6 = .ok (.shiftRight 0xD 0xE) ∧
    decodeWord 0x8AB7 = .ok (.subReverse 0xA 0xB) ∧ decodeWord 0x8F0E = .ok (.shiftLeft 0xF 0) := by decide
theorem test_decode_index_draw : decodeWord 0xA123 = .ok (.loadIndex 0x123) ∧
    decodeWord 0xD7A5 = .ok (.drawSprite 7 0xA 5) := by decide
theorem test_decode_family_E : decodeWord 0xE59E = .ok (.skipIfPressed 5) ∧ decodeWord 0xE6A1 = .ok (.skipIfNotPressed 6) := by
  decide
theorem test_decode_family_F_timers : decodeWord 0xF207 = .ok (.readDelay 2) ∧ decodeWord 0xF30A = .ok (.awaitKey 3) ∧
    decodeWord 0xF415 = .ok (.setDelay 4) ∧ decodeWord 0xF518 = .ok (.setSound 5) := by decide
theorem test_decode_family_F_memory : decodeWord 0xF61E = .ok (.addToIndex 6) ∧ decodeWord 0xF729 = .ok (.fontAddress 7) ∧
    decodeWord 0xF833 = .ok (.bcdStore 8) ∧ decodeWord 0xF955 = .ok (.registerDump 9) ∧
    decodeWord 0xFE65 = .ok (.registerLoad 0xE) := by decide

/-- The words of 2.8 (U1 to U13), S11, S12 and the decode check 0x00EF are unknown opcodes. -/
theorem test_decode_unknown_0_to_8 : decodeWord 0x0000 = .error (.unknownOpcode 0x0000) ∧
    decodeWord 0x0123 = .error (.unknownOpcode 0x0123) ∧
    decodeWord 0x00E1 = .error (.unknownOpcode 0x00E1) ∧
    decodeWord 0x00FE = .error (.unknownOpcode 0x00FE) ∧
    decodeWord 0x00EF = .error (.unknownOpcode 0x00EF) ∧
    decodeWord 0x5121 = .error (.unknownOpcode 0x5121) ∧
    decodeWord 0x912F = .error (.unknownOpcode 0x912F) ∧
    decodeWord 0x8128 = .error (.unknownOpcode 0x8128) ∧
    decodeWord 0x812F = .error (.unknownOpcode 0x812F) := by decide
theorem test_decode_unknown_E_and_F : decodeWord 0xE19F = .error (.unknownOpcode 0xE19F) ∧
    decodeWord 0xE000 = .error (.unknownOpcode 0xE000) ∧
    decodeWord 0xF000 = .error (.unknownOpcode 0xF000) ∧
    decodeWord 0xF175 = .error (.unknownOpcode 0xF175) ∧
    decodeWord 0xF1FF = .error (.unknownOpcode 0xF1FF) ∧
    decodeWord 0xF11D = .error (.unknownOpcode 0xF11D) := by decide

theorem test_decode_bytes : decodeBytes [0x12, 0x34, 0x99] = .ok (.jump 0x234, [0x99]) ∧ decodeBytes [0x12] = .error .truncated ∧
    decodeTableWord 16 0xD7A5 = some (.drawSprite 7 0xA 5) ∧ decodeTableWord 16 0x00E1 = none := by decide

/-! ### One Step of each instruction -/

/-- The state after the Step that runs the word `w`, stored at pc. -/
def run (w : Nat) (s : State) : State := stepState (s.withFetchWord 16 w)

/-- The status of that Step. -/
def status (w : Nat) (s : State) : StepStatus := stepStatus (s.withFetchWord 16 w)

/-- Registers set one after the other. -/
def withRegs : List (RegIdx × Byte) → State → State
  | [], s => s
  | (r, b) :: rest, s => withRegs rest (s.setReg r b)

/-- The reset state with some registers set. -/
def regs (l : List (RegIdx × Byte)) : State := withRegs l State.reset

/-- The reset state with registers, I, and memory bytes at I set. -/
def atIdx (i : Word) (l : List (RegIdx × Byte)) (bytes : List Byte) : State :=
  ((regs l).setIdx i).writeBytes i.toNat bytes

/-- The cells named, as they stand in a state, 1 for lit. -/
def seen (l : List (Nat × Nat)) (s : State) : List Nat := l.map fun p => if Framebuffer.cell s.fb p.1 p.2 then 1 else 0

/-- The reset state with some cells lit. -/
def withLit : List (Nat × Nat) → State → State
  | [], s => s
  | (r, c) :: rest, s => withLit rest (s.setFb (Framebuffer.flip s.fb r c))

/-- A full stack of 16 entries. -/
def fullStack : State := State.reset.setStack (List.replicate 16 0x200)

theorem test_jump_T1_T2 : (run 0x1ABC State.reset).pc = 0xABC ∧ (run 0x1FFF State.reset).pc = 0xFFF := by decide
theorem test_fetch_T3_T3b : step (State.reset.setPc 0xFFF) = .fault .fetchOutOfBounds ∧
    (run 0x1000 (State.reset.setPc 0xFFE)).pc = 0 := ⟨rfl, by decide⟩
theorem test_call_T4 : (run 0x2300 ((State.reset.setPc 0x2A0).push 0x200)).stack = [0x2A0, 0x200] ∧
    (run 0x2300 ((State.reset.setPc 0x2A0).push 0x200)).pc = 0x300 := by decide
theorem test_call_T5 : status 0x2300 fullStack = .fault .stackOverflow ∧ (run 0x2300 fullStack).sp = 16 := by decide
theorem test_ret_T6 : (run 0x00EE ((State.reset.setPc 0x300).setStack [0x2A0, 0x200])).pc = 0x2A2 ∧
    (run 0x00EE ((State.reset.setPc 0x300).setStack [0x2A0, 0x200])).stack = [0x200] := by decide
theorem test_ret_T7 : status 0x00EE State.reset = .fault .stackUnderflow ∧ (run 0x00EE State.reset).pc = 0x200 := by decide
theorem test_jumpOffset_T9_T10 : (run 0xBFFF (regs [(0, 0xFF)])).pc = 0x10FE ∧
    (run 0xB210 (regs [(0, 2), (2, 0x55)])).pc = 0x212 := by decide

theorem test_skipEqImm_S1_S2 : (run 0x332A (regs [(3, 0x2A)])).pc = 0x204 ∧ (run 0x332B (regs [(3, 0x2A)])).pc = 0x202 := by
  decide
theorem test_skipEqImm_S14 : (run 0x3000 (State.reset.setPc 4094)).pc = 4098 := by decide
theorem test_skipNeImm_S3_S4 : (run 0x432A (regs [(3, 0x2A)])).pc = 0x202 ∧ (run 0x4300 (regs [(3, 0x2A)])).pc = 0x204 := by
  decide
theorem test_skipEqReg_S5_S6 : (run 0x5120 (regs [(1, 7), (2, 7)])).pc = 0x204 ∧
    (run 0x5120 (regs [(1, 7), (2, 8)])).pc = 0x202 := by decide
theorem test_skipNeReg_S8_S9 : (run 0x9120 (regs [(1, 7), (2, 8)])).pc = 0x204 ∧
    (run 0x9120 (regs [(1, 7), (2, 7)])).pc = 0x202 := by decide
theorem test_unknown_S11 : status 0x5121 (regs [(1, 7), (2, 7)]) = .unknownOpcode 0x5121 ∧
    (run 0x5121 (regs [(1, 7), (2, 7)])).pc = 0x202 := by decide

theorem test_loadImm_A1_A2 : (run 0x6A7F State.reset).reg 0xA = 0x7F ∧ (run 0x6F05 (regs [(15, 1)])).reg 15 = 5 := by decide
theorem test_addImm_A4_A5 : (run 0x7301 (regs [(3, 0xFF)])).reg 3 = 0 ∧ (run 0x7301 (regs [(3, 0xFF)])).reg 15 = 0 ∧
    (run 0x7F02 (regs [(15, 0xFF)])).reg 15 = 1 := by decide
theorem test_move_A6 : (run 0x8120 (regs [(1, 9), (2, 4)])).reg 1 = 4 ∧ (run 0x8120 (regs [(1, 9), (2, 4)])).reg 2 = 4 := by
  decide
theorem test_or_A7 : (run 0x8121 (regs [(1, 0xF0), (2, 0x0F), (15, 7)])).reg 1 = 0xFF ∧
    (run 0x8121 (regs [(1, 0xF0), (2, 0x0F), (15, 7)])).reg 15 = 7 := by decide
theorem test_and_A8 : (run 0x8122 (regs [(1, 0xF0), (2, 0x3C)])).reg 1 = 0x30 := by decide
theorem test_xor_A9_A10 : (run 0x8123 (regs [(1, 0xF0), (2, 0x3C)])).reg 1 = 0xCC ∧ (run 0x8113 (regs [(1, 0x5A)])).reg 1 = 0 := by
  decide
theorem test_add_A13 : (run 0x8124 (regs [(1, 0xFF), (2, 0xFF)])).reg 1 = 0xFE ∧
    (run 0x8124 (regs [(1, 0xFF), (2, 0xFF)])).reg 15 = 1 := by decide
theorem test_add_F1_F2 : (run 0x8F24 (regs [(15, 0xF0), (2, 0x20)])).reg 15 = 0x10 ∧
    (run 0x81F4 (regs [(1, 0xFF), (15, 1)])).reg 1 = 0 ∧ (run 0x81F4 (regs [(1, 0xFF), (15, 1)])).reg 15 = 1 := by decide
theorem test_sub_A17_A18 : (run 0x8125 (regs [(1, 1), (2, 2)])).reg 1 = 0xFF ∧ (run 0x8125 (regs [(1, 1), (2, 2)])).reg 15 = 0 ∧
    (run 0x8125 (regs [(1, 0x33), (2, 0x33)])).reg 15 = 1 := by decide
theorem test_sub_F4_F6 : (run 0x8F25 (regs [(15, 5), (2, 3)])).reg 15 = 0xFE ∧
    (run 0x81F5 (regs [(1, 5), (15, 9)])).reg 1 = 5 := by decide
theorem test_shiftRight_A24 : (run 0x8126 (regs [(1, 0x80), (2, 0xFF), (15, 1)])).reg 1 = 0x40 ∧
    (run 0x8126 (regs [(1, 0x80), (2, 0xFF), (15, 1)])).reg 15 = 0 := by decide
theorem test_shiftRight_X4b_F9 : (run 0x8126 (regs [(1, 3)])).reg 1 = 1 ∧ (run 0x8126 (regs [(1, 3)])).reg 15 = 1 ∧
    (run 0x8F26 (regs [(15, 3)])).reg 15 = 0 := by decide
theorem test_subReverse_A20_A22 : (run 0x8127 (regs [(1, 2), (2, 5)])).reg 1 = 3 ∧ (run 0x8127 (regs [(1, 2), (2, 5)])).reg 15 = 1 ∧
    (run 0x8127 (regs [(1, 0x33), (2, 0x33), (15, 1)])).reg 15 = 0 := by decide
theorem test_subReverse_F12_F14 : (run 0x8F27 (regs [(15, 3), (2, 5)])).reg 15 = 4 ∧
    (run 0x81F7 (regs [(1, 5), (15, 9)])).reg 1 = 0xFC := by decide
theorem test_shiftLeft_A26 : (run 0x812E (regs [(1, 0x81), (2, 0x33)])).reg 1 = 2 ∧
    (run 0x812E (regs [(1, 0x81), (2, 0x33)])).reg 15 = 1 := by decide
theorem test_shiftLeft_F10_F11 : (run 0x8F2E (regs [(15, 0x81)])).reg 15 = 2 ∧ (run 0x8F2E (regs [(15, 0x41)])).reg 15 = 0 := by
  decide
theorem test_random_A29 : ((regs [(3, 0xFF)]).randomAnd 3 0x0F 0xA7).reg 3 = 7 ∧
    ((regs [(3, 0xFF)]).randomAnd 3 0x0F 0xA7).pc = 0x202 := by decide
theorem test_random_A31 : (State.reset.randomAnd 3 0xFF 0x5C).reg 3 = 0x5C := by decide

theorem test_loadIndex_M1_M2 : (run 0xA123 State.reset).idx = 0x0123 ∧ (run 0xAFFF (State.reset.setIdx 0x1234)).idx = 0x0FFF := by
  decide
theorem test_addToIndex_M3_M4 : (run 0xF21E ((regs [(2, 5)]).setIdx 0x0FFE)).idx = 0x1003 ∧
    (run 0xF21E ((regs [(2, 2)]).setIdx 0xFFFF)).idx = 1 := by decide
theorem test_fontAddress_M5_M6 : (run 0xF429 (regs [(4, 0x0A)])).idx = 0x0032 ∧ (run 0xF429 (regs [(4, 0xFF)])).idx = 0x04FB := by
  decide
theorem test_bcdStore_M8 : (run 0xF133 (atIdx 0x300 [(1, 7)] [9, 9, 9])).readBytes 0x300 3 = [0, 0, 7] := by decide
theorem test_bcdStore_M9_M10 : (run 0xF133 (atIdx 4093 [(1, 123)] [])).readBytes 4093 3 = [1, 2, 3] ∧
    status 0xF133 (atIdx 4094 [(1, 123)] []) = .fault .memOutOfBounds := by decide
theorem test_registerDump_M11 : (run 0xF255 (atIdx 0x300 [(0, 1), (1, 2), (2, 3), (3, 4)] [])).readBytes 0x300 4 = [1, 2, 3, 0] := by
  decide
theorem test_registerDump_M13_M14 : status 0xFF55 (atIdx 4081 [(0, 1)] []) = .fault .memOutOfBounds ∧
    (run 0xF055 (atIdx 4095 [(0, 0xAB)] [])).readByte 4095 = 0xAB := by decide
theorem test_registerLoad_M16 : (run 0xF165 (atIdx 0x300 [(2, 0x11)] [0xAA, 0xBB, 0xCC])).v.toList.take 3 = [0xAA, 0xBB, 0x11] := by
  decide
theorem test_registerLoad_M17_M18 : (run 0xFF65 State.reset).v.toList =
      [0xF0, 0x90, 0x90, 0x90, 0xF0, 0x20, 0x60, 0x20, 0x20, 0x70, 0xF0, 0x10, 0xF0, 0x80, 0xF0, 0xF0] ∧
    status 0xF165 (atIdx 4095 [] []) = .fault .memOutOfBounds := by decide

theorem test_clearScreen_D1 :
    seen [(0, 0), (31, 63)] (run 0x00E0 (withLit [(0, 0), (31, 63)] (regs [(15, 1)]))) = [0, 0] ∧
    (run 0x00E0 (withLit [(0, 0)] (regs [(15, 1)]))).reg 15 = 1 := by decide
theorem test_clearScreen_D1b : (run 0x00E0 (State.reset.setDirty true)).dirty = true ∧ (run 0x00E0 State.reset).dirty = false := by
  decide
theorem test_drawSprite_D3_D5 :
    seen [(0, 0), (0, 1), (0, 3), (0, 4), (4, 2), (4, 4)] (run 0xD015 (withLit [(0, 0)] State.reset)) = [0, 1, 1, 0, 1, 0] ∧
    (run 0xD015 (withLit [(0, 0)] State.reset)).reg 15 = 1 ∧
    seen [(31, 3), (0, 3), (31, 4)] (run 0xD012 (atIdx 0x300 [(0, 67), (1, 63)] [0x80, 0x80])) = [1, 0, 0] := by decide
theorem test_drawSprite_D11_D12 :
    seen [(0, 0), (0, 1)] (run 0xD011 (withLit [(0, 1)] (atIdx 0x300 [] [0xC0]))) = [1, 0] ∧
    (run 0xD011 (withLit [(0, 1)] (atIdx 0x300 [] [0xC0]))).reg 15 = 1 ∧
    seen [(0, 0), (1, 0), (0, 63)] (run 0xD011 (withLit [(0, 0), (1, 0)] (atIdx 0x300 [(0, 60)] [0x0F]))) = [1, 1, 0] := by decide

/-- The reset state with some keys pressed. -/
def withKeys : List Nat → State → State
  | [], s => s
  | k :: rest, s => withKeys rest (s.setKeyTo k true)

theorem test_skipIfPressed_K1_K2 : (run 0xE59E (withKeys [10] (regs [(5, 10)]))).pc = 0x204 ∧
    (run 0xE59E (regs [(5, 10)])).pc = 0x202 := by decide
theorem test_skipIfPressed_K5 : status 0xE59E (withKeys [0] (regs [(5, 16)])) = .fault .keyIndexRange := by decide
theorem test_skipIfNotPressed_K3_K4 : (run 0xE5A1 (regs [(5, 10)])).pc = 0x204 ∧
    (run 0xE5A1 (withKeys [10] (regs [(5, 10)]))).pc = 0x202 := by decide
theorem test_skipIfNotPressed_K6 : status 0xE5A1 ((regs [(5, 0xFF)]).setDt 3) = .fault .keyIndexRange ∧
    (run 0xE5A1 ((regs [(5, 0xFF)]).setDt 3)).dt = 3 := by decide
theorem test_awaitKey_K7 : status 0xF30A ((State.reset.setDt 2).setSt 1) = .waitingKey ∧
    (run 0xF30A ((State.reset.setDt 2).setSt 1)).pc = 0x200 ∧ (run 0xF30A ((State.reset.setDt 2).setSt 1)).dt = 1 := by decide
theorem test_awaitKey_K8 : status 0xF30A (withKeys [7, 9] (regs [(3, 0xEE)])) = .ok ∧
    (run 0xF30A (withKeys [7, 9] (regs [(3, 0xEE)]))).reg 3 = 7 := by decide
theorem test_readDelay_K11 : (run 0xF207 (State.reset.setDt 5)).reg 2 = 5 ∧ (run 0xF207 (State.reset.setDt 5)).dt = 4 := by decide
theorem test_setDelay_K13_K15 : (run 0xF215 (regs [(2, 0x3C)])).dt = 59 ∧ (run 0xF215 ((regs [(2, 0)]).setDt 9)).dt = 0 := by decide
theorem test_setSound_K17 : (run 0xF218 ((regs [(2, 0xFF)]).setDt 1)).st = 254 ∧
    (run 0xF218 ((regs [(2, 0xFF)]).setDt 1)).dt = 0 := by decide

/-! ### Host operations -/

theorem test_host_H4 : (hostRun [.load [0x12, 0x00], .step, .load [0x60, 0x05], .step, .readProgramCounter] State.reset).2 =
    [.ok, .status .ok, .ok, .status .ok, .word 0x202] := by decide
theorem test_host_H9_H10 : (hostOp (.setKey 16 true) State.reset).2 = .invalidKeyIndex ∧
    (hostRun [.setKey 15 true, .setKey 15 false, .setKey 3 true] State.reset).1.keys.toList =
      [false, false, false, true, false, false, false, false, false, false, false, false, false, false, false, false] := by decide
theorem test_host_X2 : (hostRun [.load [0x22, 0x02, 0x00, 0xEE], .step, .step, .readProgramCounter] State.reset).2 =
    [.ok, .status .ok, .status .ok, .word 0x202] := by decide
theorem test_status_codes : StepStatus.code .ok = some 0 ∧ StepStatus.code (.unknownOpcode 0) = some 1 ∧
    StepStatus.code .waitingKey = some 2 ∧ StepStatus.code (.fault .stackUnderflow) = some 8 ∧
    StepStatus.code (.fault .memOutOfBounds) = some 9 ∧ StepStatus.code (.fault .fetchOutOfBounds) = some 10 ∧
    StepStatus.code (.fault .stackOverflow) = some 11 ∧ StepStatus.code (.fault .keyIndexRange) = some 12 := by decide

/-! ### Witnesses: for each obligation with hypotheses, states and operands that meet all of them together -/

/-- Parameters at the edges of R6: an unbounded stack, and the font ending just below 0x200. -/
def edgeParams : Params := { stackDepth := none, fontBase := 432, fontData := defaultFontData }

/-- The reset state about to run the word `w`. -/
def about (w : Nat) : State := State.reset.withFetchWord 16 w

/-- A state with `n` stack entries. -/
def stacked (n : Nat) : State := State.reset.setStack (List.replicate n 0x200)

theorem test_witness_ResetLeavesTheSpecifiedState : defaultParams.wf = true ∧ edgeParams.wf = true := by decide

theorem test_witness_JumpGoesToItsTarget : (0xFFF : BitVec 12).toNat = 0xFFF ∧ Fetches (about 0x1200) (.jump 0x200) ∧
    (about 0x1200).pc.toNat = (0x200 : BitVec 12).toNat := ⟨rfl, ⟨by decide, by decide⟩, by decide⟩

theorem test_witness_CallPushesItsOwnAddress_room : ∀ d, (stacked 15).params.stackDepth = some d → (stacked 15).sp < d := by
  intro d h
  cases h
  decide

theorem test_witness_CallPushesItsOwnAddress_unbounded :
    ∀ d, (State.resetWith edgeParams).params.stackDepth = some d → (State.resetWith edgeParams).sp < d := by
  intro d h
  cases h

theorem test_witness_CallPushesItsOwnAddress_full : (stacked 16).params.stackDepth = some 16 ∧ 16 ≤ (stacked 16).sp := by decide

theorem test_witness_ReturnResumesAfterTheCall : (0 < (stacked 1).sp ∧ (stacked 1).stk ((stacked 1).sp - 1) = some 0x200) ∧
    (about 0x00EE).sp = 0 ∧ Fetches (about 0x00EE) .ret := ⟨by decide, by decide, by decide, by decide⟩

theorem test_witness_JumpOffsetAddsV0 : 4094 < ((regs [(0, 1)]).reg 0).toNat + (0xFFE : BitVec 12).toNat ∧
    ¬ 4094 < ((regs [(0, 0)]).reg 0).toNat + (0xFFE : BitVec 12).toNat := by decide

theorem test_witness_CallAndReturnResumeAfterTheCall : ∃ u, exec (.call 0x300) (stacked 3) = .next u ∧
    (State.reset.setStack u.stack).stack = u.stack := ⟨_, rfl, rfl⟩

theorem test_witness_SkipsOnAnImmediate : (regs [(3, 7)]).reg 3 = 7 ∧ (regs [(3, 7)]).reg 3 ≠ 8 := by decide

theorem test_witness_SkipsOnARegister : (opField 0x5121 = 5 ∧ nField 0x5121 ≠ 0) ∧ (opField 0x912F = 9 ∧ nField 0x912F ≠ 0) ∧
    (regs [(3, 7), (4, 7)]).reg 3 = (regs [(3, 7), (4, 7)]).reg 4 ∧ (regs [(3, 7)]).reg 3 ≠ (regs [(3, 7)]).reg 4 := by decide

theorem test_witness_SubWritesNoBorrowThenTheDifference : ∃ f : Nat,
    f = (if ((regs [(1, 1), (2, 2)]).reg 2).toNat > ((regs [(1, 1), (2, 2)]).reg 1).toNat then 0 else 1) ∧ f = 0 := by
  exact ⟨0, by decide, rfl⟩

theorem test_witness_SubReverseWritesGreaterThenTheDifference : ∃ f : Nat,
    f = (if ((regs [(1, 1), (2, 2)]).reg 2).toNat > ((regs [(1, 1), (2, 2)]).reg 1).toNat then 1 else 0) ∧ f = 1 := by
  exact ⟨1, by decide, rfl⟩

theorem test_witness_Shifts : ∃ f g : Nat, f = ((regs [(1, 0x81)]).reg 1).toNat % 2 ∧ g = ((regs [(1, 0x81)]).reg 1).toNat / 128 ∧
    f = 1 ∧ g = 1 := ⟨1, 1, by decide, by decide, rfl, rfl⟩

theorem test_witness_FlagWritersWithVfAsAnOperand : (0 : RegIdx) ≠ 15 ∧ (14 : RegIdx) ≠ 15 ∧
    0xF0 = ((regs [(15, 0xF0), (0, 3)]).reg 15).toNat ∧ 3 = ((regs [(15, 0xF0), (0, 3)]).reg 0).toNat ∧
    0 = ((regs [(15, 0xF0), (0, 3)]).reg 14).toNat := by decide

theorem test_witness_LoadIndexSetsTheIndex : (0xAF : Byte).toNat = 0xA0 + (0xFFF : BitVec 12).toNat / 256 ∧
    (0xFF : Byte).toNat = (0xFFF : BitVec 12).toNat % 256 := by decide

theorem test_witness_FontAddressPointsAtTheGlyph : State.reset.params.wf = true ∧
    (State.resetWith edgeParams).params.wf = true := by decide

theorem test_witness_BcdStoreWritesTheThreeDigits :
    ((State.reset.setIdx 4093).idx.toNat + 2 ≤ 4095 ∧
      Memory.wf (State.reset.setIdx 4093).params (State.reset.setIdx 4093).mem = true) ∧
    (State.reset.setIdx 4094).idx.toNat + 2 > 4095 := by decide

theorem test_witness_RegisterDumpStoresV0ToVx :
    ((State.reset.setIdx 4080).idx.toNat + (15 : RegIdx).val ≤ 4095 ∧
      Memory.wf (State.reset.setIdx 4080).params (State.reset.setIdx 4080).mem = true) ∧
    (State.reset.setIdx 4081).idx.toNat + (15 : RegIdx).val > 4095 ∧ (0 : RegIdx) ≤ 15 := by decide

theorem test_witness_RegisterLoadFillsV0ToVx : (State.reset.setIdx 4095).idx.toNat + (0 : RegIdx).val ≤ 4095 ∧
    (State.reset.setIdx 4096).idx.toNat + (0 : RegIdx).val > 4095 := by decide

theorem test_witness_RegisterLoad_after_a_dump : ∃ t u : State,
    Memory.wf (atIdx 0x300 [(0, 5)] []).params (atIdx 0x300 [(0, 5)] []).mem = true ∧
    exec (.registerDump 3) (atIdx 0x300 [(0, 5)] []) = .next t ∧ u.mem = t.mem ∧ u.params = t.params ∧ u.idx = t.idx ∧
    u.reg 0 ≠ t.reg 0 := by
  refine ⟨_, withRegs [(0, 9)] ((run 0xF355 (atIdx 0x300 [(0, 5)] [])).writeBytes 0x200 [0, 0]), by decide, rfl, ?_⟩
  decide

theorem test_witness_RegisterLoad_before_a_dump : ∃ t, Memory.wf State.reset.params State.reset.mem = true ∧
    exec (.registerLoad 3) State.reset = .next t := ⟨_, by decide, rfl⟩

/-- The program counter two before the bytes that the dump stores. -/
theorem test_witness_AStoreIsSeenByTheNextFetch : ∃ t, Memory.wf (atIdx 0x202 [] []).params (atIdx 0x202 [] []).mem = true ∧
    exec (.registerDump 1) (atIdx 0x202 [] []) = .next t ∧ (1 : RegIdx) ≤ 1 ∧ (1 : RegIdx).val = (0 : RegIdx).val + 1 ∧
    ((atIdx 0x202 [] []).pc + 2).toNat = (atIdx 0x202 [] []).base + (0 : RegIdx).val :=
  ⟨_, by decide, rfl, by decide, by decide, by decide⟩

/-- A store of digits, and later states that fetch from its first address and from the one before it, their byte as stored. -/
theorem test_witness_AStoreIsSeenByTheNextFetch_digits : ∃ t,
    Memory.wf (atIdx 0x300 [(1, 255)] []).params (atIdx 0x300 [(1, 255)] []).mem = true ∧
    exec (.bcdStore 1) (atIdx 0x300 [(1, 255)] []) = .next t ∧ (t.setPc 0x300).readByte 0x300 = t.readByte 0x300 ∧
    (t.setPc 0x300).pc.toNat = 0x300 ∧ (t.setPc 0x2FF).readByte 0x300 = t.readByte 0x300 ∧
    (t.setPc 0x2FF).pc.toNat + 1 = 0x300 :=
  ⟨_, by decide, rfl, rfl, rfl, rfl, rfl⟩

theorem test_witness_MemoriesThatReadTheSameAreEqual : Memory.wf defaultParams [(0x300, 1)] = true ∧
    (∀ a, a < 4096 → memRead defaultParams [(0x300, 1)] a = memRead defaultParams [(0x300, 1)] a) :=
  ⟨by decide, fun _ _ => rfl⟩

theorem test_witness_DrawSpriteXorsTheSpriteIntoTheGrid :
    ((0 : Fin 16).val = 0 ∨ (State.reset.setIdx 0xFFFF).idx.toNat + (0 : Fin 16).val - 1 ≤ 4095) ∧
    ((1 : Fin 16).val = 0 ∨ (State.reset.setIdx 4095).idx.toNat + (1 : Fin 16).val - 1 ≤ 4095) ∧
    ((2 : Fin 16).val ≥ 1 ∧ (State.reset.setIdx 4095).idx.toNat + (2 : Fin 16).val - 1 > 4095) := by decide

theorem test_witness_DrawSprite_collision : ∃ r c, r < 32 ∧ c < 64 ∧
    Framebuffer.cell (withLit [(0, 1)] (atIdx 0x300 [] [0xC0])).fb r c = true ∧
    spriteBit (withLit [(0, 1)] (atIdx 0x300 [] [0xC0])) 0 1 1 r c = true := ⟨0, 1, by decide⟩

theorem test_witness_DrawSprite_no_collision : ∀ r c, r < 32 → c < 64 → Framebuffer.cell State.reset.fb r c = true →
    spriteBit State.reset 0 1 5 r c = false := by
  intro r c _ _ h
  have hb : Framebuffer.cell State.reset.fb r c = false := cell_blank r c
  rw [hb] at h
  cases h

theorem test_witness_DrawingTwiceRestoresTheFramebuffer : ∃ t, exec (.drawSprite 0 1 5) State.reset = .next t ∧
    (t.reg 0).toNat % 64 = (State.reset.reg 0).toNat % 64 ∧ (t.reg 1).toNat % 32 = (State.reset.reg 1).toNat % 32 :=
  ⟨_, rfl, by decide, by decide⟩

/-- The origin read from VF itself, which the first draw leaves at 0. -/
theorem test_witness_DrawingTwice_origin_in_VF : ∃ t, exec (.drawSprite 15 15 5) State.reset = .next t ∧
    (t.reg 15).toNat % 64 = (State.reset.reg 15).toNat % 64 ∧ (t.reg 15).toNat % 32 = (State.reset.reg 15).toNat % 32 :=
  ⟨_, rfl, by decide, by decide⟩

theorem test_witness_KeySkipsTestTheKeyInVx : ((regs [(5, 15)]).reg 5).toNat ≤ 15 ∧ 15 < ((regs [(5, 16)]).reg 5).toNat := by decide

theorem test_witness_AwaitKeyStoresTheLeastKeyOrWaits :
    ((withKeys [15] (about 0xF30A)).keyDown 15 = true ∧ ∀ j, j < 15 → (withKeys [15] (about 0xF30A)).keyDown j = false) ∧
    Fetches (withKeys [15] (about 0xF30A)) (.awaitKey 3) ∧
    (∀ k, k < 16 → (about 0xF30A).keyDown k = false) ∧ Fetches (about 0xF30A) (.awaitKey 3) :=
  ⟨by decide, ⟨by decide, by decide⟩, by decide, by decide, by decide⟩

theorem test_witness_Timers_fetch : Fetches (about 0xF207) (.readDelay 2) ∧ Fetches (about 0xF215) (.setDelay 2) ∧
    Fetches (about 0xF218) (.setSound 2) := ⟨⟨by decide, by decide⟩, ⟨by decide, by decide⟩, by decide, by decide⟩

/-- Two Steps of a jump to itself. -/
theorem test_witness_DelayCountsDownOnceAStep : ∃ t, RunsWithoutSetDelay 2 (about 0x1200) t :=
  ⟨_, _, rfl, fun _ h => (nomatch h), _, rfl, fun _ h => (nomatch h), rfl⟩

theorem test_witness_TimersRiseOnlyBySetDelayAndSetSound : ∃ t, step (about 0x1200) = .next t ∧
    (∀ x, decodeWord (about 0x1200).fetchWord ≠ .ok (.setDelay x)) ∧
    (∀ x, decodeWord (about 0x1200).fetchWord ≠ .ok (.setSound x)) :=
  ⟨_, rfl, fun _ h => (by cases h), fun _ h => by cases h⟩

theorem test_witness_AStepRunsTheDecodedInstruction_next : ∃ u, (about 0x6A7F).pc.toNat ≤ 4094 ∧
    decodeBytes [(about 0x6A7F).readByte (about 0x6A7F).pc.toNat, (about 0x6A7F).readByte ((about 0x6A7F).pc.toNat + 1)] =
      .ok (.loadImm 0xA 0x7F, []) ∧ exec (.loadImm 0xA 0x7F) (about 0x6A7F) = .next u := ⟨_, by decide, by decide, rfl⟩

theorem test_witness_AStepRunsTheDecodedInstruction_status : ¬ WaitsForAKey (.loadImm 0xA 0x7F) (about 0x6A7F) ∧
    WaitsForAKey (.awaitKey 3) (about 0xF30A) ∧ ¬ WaitsForAKey (.awaitKey 3) (withKeys [15] (about 0xF30A)) ∧
    exec (.awaitKey 3) (about 0xF30A) = .next (about 0xF30A) := by
  refine ⟨?_, ⟨⟨3, rfl⟩, by decide⟩, fun h => ?_, rfl⟩
  · rintro ⟨⟨x, h⟩, -⟩
    cases h
  · exact absurd (h.2 15 (by decide)) (by decide)

theorem test_witness_AStepRunsTheDecodedInstruction_fault : (about 0x00EE).pc.toNat ≤ 4094 ∧
    decodeBytes [(about 0x00EE).readByte (about 0x00EE).pc.toNat, (about 0x00EE).readByte ((about 0x00EE).pc.toNat + 1)] =
      .ok (.ret, []) ∧ exec .ret (about 0x00EE) = .fault .stackUnderflow := ⟨by decide, by decide, rfl⟩

theorem test_witness_TheStoredWordIsTheOneFetched : (State.reset.setPc 4094).pc.toNat ≤ 4094 ∧
    Memory.wf (State.reset.setPc 4094).params (State.reset.setPc 4094).mem = true ∧ 65535 < 65536 ∧
    decodeTableWord 16 0xFE65 = some (.registerLoad 0xE) ∧ 0x300 ≠ (State.reset.setPc 4094).pc.toNat ∧
    0x300 ≠ (State.reset.setPc 4094).pc.toNat + 1 := by decide

theorem test_witness_AnUnknownOpcodeIsAReportedNoOp : State.reset.pc.toNat ≤ 4094 ∧
    ∀ i, decodeWord State.reset.fetchWord ≠ .ok i := ⟨by decide, fun _ h => by cases h⟩

theorem test_witness_AFetchAbove4094Faults : 4094 < (State.reset.setPc 4095).pc.toNat := by decide

theorem test_witness_ThePcFollowsTheTable : (∃ t, exec (.skipEqImm 3 0) (about 0x3300) = .next t ∧ step (about 0x3300) = .next t) ∧
    Fetches (about 0x3300) (.skipEqImm 3 0) ∧
    (∃ t, (∀ i, decodeWord State.reset.fetchWord ≠ .ok i) ∧ step State.reset = .next t) :=
  ⟨⟨_, rfl, rfl⟩, ⟨by decide, by decide⟩, _, fun _ h => (by cases h), rfl⟩

theorem test_witness_OnlyTheNamedWritersChangeEachPart : ∃ t, exec (.addReg 1 2) (regs [(1, 0xFF), (2, 1)]) = .next t := ⟨_, rfl⟩

theorem test_witness_RegistersChangeOnlyAsDestinationsOrAsTheFlag : (∃ t, exec (.addReg 1 2) State.reset = .next t) ∧
    ¬ destinations (.addReg 1 2) 3 ∧ ((3 : RegIdx) = 15 → ¬ writesFlag (.addReg 1 2)) ∧
    ¬ destinations (.loadImm 1 0) 15 ∧ ¬ writesFlag (.loadImm 1 0) :=
  ⟨⟨_, rfl⟩, by simp [destinations], by simp, by simp [destinations], fun h => h⟩

theorem test_witness_TheFlagIsZeroOrOne : (∃ t, exec (.addReg 1 2) State.reset = .next t) ∧ writesFlag (.addReg 1 2) ∧
    ¬ destinations (.addReg 1 2) 15 := ⟨⟨_, rfl⟩, trivial, by simp [destinations]⟩

/-- Every cause of the table of R241. -/
theorem test_witness_AStepFaultsExactlyWhereTheTableSays : step (about 0x00EE) = .fault .stackUnderflow ∧
    step ((about 0xF133).setIdx 4094) = .fault .memOutOfBounds ∧ step (State.reset.setPc 0x10FE) = .fault .fetchOutOfBounds ∧
    step ((about 0x2300).setStack (List.replicate 16 0x200)) = .fault .stackOverflow ∧
    step ((about 0xE59E).setReg 5 16) = .fault .keyIndexRange := ⟨rfl, rfl, rfl, rfl, rfl⟩

theorem test_witness_EveryInstructionCompletesUnlessItFaults : faultCause .ret (stacked 1) = none ∧
    faultCause (.registerDump 15) (State.reset.setIdx 4080) = none ∧
    faultCause (.registerDump 15) (State.reset.setIdx 4081) = some .memOutOfBounds := by decide

theorem test_witness_AFaultingStepChangesNothing : step (about 0x00EE) = .fault .stackUnderflow := rfl

/-- A state that meets the invariant and is not the reset state: a full stack, bytes in memory, pc at its bound. -/
theorem test_witness_Invariant : ((atIdx 0x300 [] [1, 2]).setStack (List.replicate 16 4094) |>.setPc 0x10FE).Inv where
  params := by decide
  mem := by decide
  stackDepth := by decide
  stackEntries := fun r hr => by
    rw [List.eq_of_mem_replicate (show r ∈ List.replicate 16 4094 from hr)]
    decide
  pc := by decide

theorem test_witness_EveryStepKeepsTheInvariant : (about 0x2300).Inv ∧ ∃ t, step (about 0x2300) = .next t :=
  ⟨{ params := by decide, mem := by decide, stackDepth := by decide, stackEntries := fun _ h => (by cases h), pc := by decide },
    _, rfl⟩

theorem test_witness_OnlyRandomAndReadsTheDraw : ∀ x nn, decodeWord (about 0x6A7F).fetchWord ≠ .ok (.randomAnd x nn) :=
  fun _ _ h => by cases h

theorem test_witness_DecodeAndEncodeAgree : decodeWord 0x8126 = .ok (.shiftRight 1 2) := by decide

theorem test_witness_LoadIsAllOrNothing : (List.replicate 3584 (0xAA : Byte)).length ≤ 3584 ∧
    Memory.wf State.reset.params State.reset.mem = true ∧ 3584 < (List.replicate 3585 (0xAA : Byte)).length := by
  simp only [List.length_replicate]
  decide

theorem test_witness_SetKeyWritesOneKey : 15 ≤ 15 ∧ 15 < 16 ∧ State.reset.keyDown 15 = false := by decide

theorem test_witness_TheDrawFlagIsReadOnce : ∃ t, exec (.drawSprite 0 0 1) State.reset = .next t := ⟨_, rfl⟩

theorem test_witness_TheStatusesHaveTheCodesOfTheTable : StepStatus.code .waitingKey = some 2 ∧
    (∀ t, step (about 0x00EE) ≠ .next t) ∧ ∃ t, step (about 0x6A7F) = .next t :=
  ⟨rfl, fun _ h => (nomatch h), _, rfl⟩

end Sys2Proof.Tests
end

/-! SUPPORT. The shape of the skips' proofs (spec 42_skip.md): a row whose mask is the first nibble decodes by that nibble, and
a skip whose handler is `skipIf` writes pc and nothing else. -/

namespace Sys2Proof.Proofs

open Sys2Proof.Machine Sys2Proof.Claims

/-- The rows of R85 whose mask covers the first nibble alone: what the decoder does on that nibble is what the row says. -/
theorem decodesAs_of_opField {mat : Word} {row : Word → Instr} (op : BitVec 4) (hop : mat.extractLsb' 12 4 = op)
    (h : ∀ w, opField w = op → decodeWord w = .ok (row w)) : DecodesAs mat 0xF000 row := by
  intro w hw
  have hfield : opField w = mat.extractLsb' 12 4 := opField_of_mask 0xF000 (by decide) hw
  exact h w (hfield.trans hop)

theorem decodeWord_skipEqImm {w : Word} (h : opField w = 0x3#4) :
    decodeWord w = .ok (.skipEqImm (xField w) (nnField w)) := by
  simp only [decodeWord, h]

theorem decodeWord_skipNeImm {w : Word} (h : opField w = 0x4#4) :
    decodeWord w = .ok (.skipNeImm (xField w) (nnField w)) := by
  simp only [decodeWord, h]

theorem exec_skipEqImm (x : RegIdx) (nn : Byte) (s : State) :
    exec (.skipEqImm x nn) s = .next (s.skipIf (s.reg x == nn)) := rfl

theorem exec_skipNeImm (x : RegIdx) (nn : Byte) (s : State) :
    exec (.skipNeImm x nn) s = .next (s.skipIf (s.reg x != nn)) := rfl

/-- A skip leaves everything but pc as it was (R140). -/
theorem skipIf_onlyChanges_pc (s : State) (c : Bool) : OnlyChanges [.pc] s (s.skipIf c) := by
  simp [OnlyChanges]

/-- A handler that is a skip on `c` completes, with pc + 4 where `c` holds and pc + 2 where it does not (R140). -/
theorem skips_of_exec {i : Instr} {s : State} {c : Bool} {skip stay : Prop} (hexec : exec i s = .next (s.skipIf c))
    (hskip : skip → c = true) (hstay : stay → c = false) :
    ∃ t, exec i s = .next t ∧ OnlyChanges [.pc] s t ∧ (skip → t.pc = s.pc + 4) ∧ (stay → t.pc = s.pc + 2) := by
  refine ⟨s.skipIf c, hexec, skipIf_onlyChanges_pc s c, fun h => ?_, fun h => ?_⟩
  · simp [hskip h]
  · simp [hstay h]

/-- Settles O7: each row is decoded by its first nibble, and each handler is one skip on its comparison. -/
theorem skipsOnAnImmediate : Obligations.SkipsOnAnImmediate := by
  refine ⟨decodesAs_of_opField 0x3#4 (by decide) fun _ => decodeWord_skipEqImm,
    decodesAs_of_opField 0x4#4 (by decide) fun _ => decodeWord_skipNeImm, fun x nn s => ⟨?eq, ?ne⟩⟩
  case eq => exact skips_of_exec (exec_skipEqImm x nn s) beq_iff_eq.mpr beq_eq_false_iff_ne.mpr
  case ne => exact skips_of_exec (exec_skipNeImm x nn s) bne_iff_ne.mpr bne_eq_false_iff_eq.mpr

end Sys2Proof.Proofs

/-! SUPPORT. The shape of the proofs about register loads and logic (spec 43_alu.md): a row of family 8 decodes by its first and
trailing nibbles, and a handler that is one `setReg` and `advance` writes Vx and pc and nothing else. -/

namespace Sys2Proof.Proofs

open Sys2Proof.Machine Sys2Proof.Claims

/-- The rows of family 8, whose mask covers the first and the trailing nibble: the trailing nibble selects (R84 (c), R85). -/
theorem decodesAs_of_family8 {mat : Word} {row : Word → Instr} (n : BitVec 4)
    (hop : mat.extractLsb' 12 4 = 0x8#4) (hn : mat.extractLsb' 0 4 = n)
    (h : ∀ w, w.extractLsb' 0 4 = n → decodeFamily8 w = .ok (row w)) : DecodesAs mat 0xF00F row := by
  intro w hw
  have hfirst : opField w = 0x8#4 := (opField_of_mask 0xF00F (by decide) hw).trans hop
  have htrailing : w.extractLsb' 0 4 = n := (trailingNibble_of_mask 0xF00F (by decide) hw).trans hn
  have hfamily : decodeWord w = decodeFamily8 w := by simp only [decodeWord, hfirst]
  exact hfamily.trans (h w htrailing)

theorem decodeWord_loadImm {w : Word} (h : opField w = 0x6#4) : decodeWord w = .ok (.loadImm (xField w) (nnField w)) := by
  simp only [decodeWord, h]

theorem decodeWord_addImm {w : Word} (h : opField w = 0x7#4) : decodeWord w = .ok (.addImm (xField w) (nnField w)) := by
  simp only [decodeWord, h]

theorem decodeFamily8_move {w : Word} (h : w.extractLsb' 0 4 = 0x0#4) :
    decodeFamily8 w = .ok (.move (xField w) (yField w)) := by
  simp only [decodeFamily8, h]

theorem decodeFamily8_orReg {w : Word} (h : w.extractLsb' 0 4 = 0x1#4) :
    decodeFamily8 w = .ok (.orReg (xField w) (yField w)) := by
  simp only [decodeFamily8, h]

theorem decodeFamily8_andReg {w : Word} (h : w.extractLsb' 0 4 = 0x2#4) :
    decodeFamily8 w = .ok (.andReg (xField w) (yField w)) := by
  simp only [decodeFamily8, h]

theorem decodeFamily8_xorReg {w : Word} (h : w.extractLsb' 0 4 = 0x3#4) :
    decodeFamily8 w = .ok (.xorReg (xField w) (yField w)) := by
  simp only [decodeFamily8, h]

theorem exec_loadImm (x : RegIdx) (nn : Byte) (s : State) : exec (.loadImm x nn) s = .next (s.setReg x nn).advance := rfl

theorem exec_addImm (x : RegIdx) (nn : Byte) (s : State) :
    exec (.addImm x nn) s = .next (s.setReg x (s.reg x + nn)).advance := rfl

theorem exec_move (x y : RegIdx) (s : State) : exec (.move x y) s = .next (s.setReg x (s.reg y)).advance := rfl

theorem exec_orReg (x y : RegIdx) (s : State) :
    exec (.orReg x y) s = .next (s.setReg x (s.reg x ||| s.reg y)).advance := rfl

theorem exec_andReg (x y : RegIdx) (s : State) :
    exec (.andReg x y) s = .next (s.setReg x (s.reg x &&& s.reg y)).advance := rfl

theorem exec_xorReg (x y : RegIdx) (s : State) :
    exec (.xorReg x y) s = .next (s.setReg x (s.reg x ^^^ s.reg y)).advance := rfl

/-- One register write and the advance leave the other registers as they were, VF among them (R150). -/
theorem setReg_advance_setsRegister (s : State) (x : RegIdx) (b : Byte) :
    SetsRegister s (s.setReg x b).advance x b.toNat := by
  intro r
  by_cases hr : r = x
  · simp [hr]
  · simp [hr, Ne.symm hr]

theorem setReg_advance_onlyChanges_regs_pc (s : State) (x : RegIdx) (b : Byte) :
    OnlyChanges [.regs, .pc] s (s.setReg x b).advance := by
  simp [OnlyChanges]

/-- A handler that writes one register and advances completes, and that register and pc are all it changes (R150). -/
theorem writesOneRegister_of_exec {i : Instr} {s : State} {x : RegIdx} {b : Byte} {result : Nat}
    (hexec : exec i s = .next (s.setReg x b).advance) (hresult : b.toNat = result) :
    ∃ t, exec i s = .next t ∧ SetsRegister s t x result ∧ t.pc = s.pc + 2 ∧ OnlyChanges [.regs, .pc] s t := by
  subst hresult
  exact ⟨_, hexec, setReg_advance_setsRegister s x b, by simp, setReg_advance_onlyChanges_regs_pc s x b⟩

/-- Settles O9: each row is decoded by its first nibble, and each handler is one register write and the advance, the byte
addition being the sum modulo 256. -/
theorem loadImmAndAddImmWriteOneRegister : Obligations.LoadImmAndAddImmWriteOneRegister := by
  refine ⟨decodesAs_of_opField 0x6#4 (by decide) fun _ => decodeWord_loadImm,
    decodesAs_of_opField 0x7#4 (by decide) fun _ => decodeWord_addImm, fun x nn s => ⟨?load, ?add⟩⟩
  case load => exact writesOneRegister_of_exec (exec_loadImm x nn s) rfl
  case add => exact writesOneRegister_of_exec (exec_addImm x nn s) (BitVec.toNat_add (s.reg x) nn)

/-- Settles O10: each row is decoded by its first and trailing nibbles, and each handler is one register write and the
advance, the bitwise operations being those of the operands as numbers. -/
theorem moveAndLogicWriteOneRegister : Obligations.MoveAndLogicWriteOneRegister := by
  refine ⟨decodesAs_of_family8 0x0#4 (by decide) (by decide) fun _ => decodeFamily8_move,
    decodesAs_of_family8 0x1#4 (by decide) (by decide) fun _ => decodeFamily8_orReg,
    decodesAs_of_family8 0x2#4 (by decide) (by decide) fun _ => decodeFamily8_andReg,
    decodesAs_of_family8 0x3#4 (by decide) (by decide) fun _ => decodeFamily8_xorReg,
    fun x y s => ⟨?move, ?or, ?and, ?xor⟩⟩
  case move => exact writesOneRegister_of_exec (exec_move x y s) rfl
  case or => exact writesOneRegister_of_exec (exec_orReg x y s) (BitVec.toNat_or (s.reg x) (s.reg y))
  case and => exact writesOneRegister_of_exec (exec_andReg x y s) (BitVec.toNat_and (s.reg x) (s.reg y))
  case xor => exact writesOneRegister_of_exec (exec_xorReg x y s) (BitVec.toNat_xor (s.reg x) (s.reg y))

end Sys2Proof.Proofs

/-! SUPPORT. The shape of the proofs about the index register and memory (spec 44_index_memory.md): a row of family F decodes by
its trailing byte, an access at I is checked as a whole before anything is written, a store writes its bytes and nothing else,
and rewriting the bytes that memory already holds leaves its list as it was. -/

namespace Sys2Proof.Proofs

open Sys2Proof.Machine Sys2Proof.Claims

/-! ### Decoding -/

/-- The rows of family F, whose mask leaves out x alone: the trailing byte selects (R84 (d), R85). -/
theorem decodesAs_of_familyF {mat : Word} {row : Word → Instr} (nn : Byte)
    (hop : mat.extractLsb' 12 4 = 0xF#4) (hnn : mat.extractLsb' 0 8 = nn)
    (h : ∀ w, nnField w = nn → decodeFamilyF w = .ok (row w)) : DecodesAs mat 0xF0FF row := by
  intro w hw
  have hfirst : opField w = 0xF#4 := (opField_of_mask 0xF0FF (by decide) hw).trans hop
  have htrailing : nnField w = nn := (nnField_of_mask 0xF0FF (by decide) hw).trans hnn
  have hfamily : decodeWord w = decodeFamilyF w := by
    simp only [decodeWord, hfirst]
    rfl
  exact hfamily.trans (h w htrailing)

theorem decodeWord_loadIndex {w : Word} (h : opField w = 0xA#4) : decodeWord w = .ok (.loadIndex (nnnField w)) := by
  simp only [decodeWord, h]

theorem decodeFamilyF_bcdStore {w : Word} (h : nnField w = 0x33#8) : decodeFamilyF w = .ok (.bcdStore (xField w)) := by
  simp only [decodeFamilyF, h]

theorem decodeFamilyF_registerDump {w : Word} (h : nnField w = 0x55#8) :
    decodeFamilyF w = .ok (.registerDump (xField w)) := by
  simp only [decodeFamilyF, h]

theorem decodeFamilyF_registerLoad {w : Word} (h : nnField w = 0x65#8) :
    decodeFamilyF w = .ok (.registerLoad (xField w)) := by
  simp only [decodeFamilyF, h]

/-! ### What the handlers answer -/

theorem exec_loadIndex (nnn : BitVec 12) (s : State) :
    exec (.loadIndex nnn) s = .next (s.setIdx (zextAddr nnn)).advance := rfl

theorem exec_bcdStore (x : RegIdx) (s : State) :
    exec (.bcdStore x) s = checkedAccess s.base 3 (s.writeBytes s.base (bcdDigits (s.reg x))).advance := rfl

theorem exec_registerDump (x : RegIdx) (s : State) :
    exec (.registerDump x) s = checkedAccess s.base (x.val + 1) (s.writeBytes s.base (s.regsUpTo x)).advance := rfl

theorem exec_registerLoad (x : RegIdx) (s : State) :
    exec (.registerLoad x) s =
      checkedAccess s.base (x.val + 1) (s.setRegs (loadRegs s.v 0 (s.readBytes s.base (x.val + 1)))).advance := rfl

/-- An access of n + 1 bytes goes on exactly when the last of them, at a + n, is in memory (R58). -/
theorem checkedAccess_succ_eq_next {a n : Nat} {s' t : State} :
    checkedAccess a (n + 1) s' = .next t ↔ a + n ≤ 4095 ∧ t = s' := by
  simp [checkedAccess_eq_next, accessLegal_iff]

/-- An access of n + 1 bytes whose last one is past the end of memory faults (R243). -/
theorem checkedAccess_succ_of_outside {a n : Nat} (s' : State) (h : a + n > 4095) :
    checkedAccess a (n + 1) s' = .fault .memOutOfBounds := by
  have hillegal : accessLegal a (n + 1) = false := by
    rw [Bool.eq_false_iff, ne_eq, accessLegal_iff]
    omega
  exact checkedAccess_eq_fault.mpr ⟨hillegal, rfl⟩

/-! ### Stores -/

/-- Each byte written reads back at its own address (R53, R54). -/
theorem readByte_writeBytes_of_getElem? {s : State} {a k : Nat} {b : Byte} {bs : List Byte} (hlen : a + bs.length ≤ 4096)
    (hm : Memory.wf s.params s.mem = true) (hk : bs[k]? = some b) : (s.writeBytes a bs).readByte (a + k) = b := by
  simp [readByte_writeBytes hlen hm, hk]

/-- A byte outside those written reads as before (R53, R54). -/
theorem readByte_writeBytes_outside {s : State} {a c : Nat} {bs : List Byte} (hlen : a + bs.length ≤ 4096)
    (hm : Memory.wf s.params s.mem = true) (hc : c < a ∨ a + bs.length ≤ c) :
    (s.writeBytes a bs).readByte c = s.readByte c :=
  memRead_memWriteBytes_outside hlen hm hc

theorem writeBytes_advance_onlyChanges_mem_pc (s : State) (a : Nat) (bs : List Byte) :
    OnlyChanges [.mem, .pc] s (s.writeBytes a bs).advance := by
  simp [OnlyChanges]

/-- A handler that stores bytes at I and advances completes where the last byte, at I + n, is in memory: each byte is then at
its address, and those bytes and pc are all that changes (R170). -/
theorem stores_of_exec {i : Instr} {s : State} {n : Nat} {bs : List Byte}
    (hexec : exec i s = checkedAccess s.base (n + 1) (s.writeBytes s.base bs).advance) (hlen : bs.length = n + 1)
    (hin : s.idx.toNat + n ≤ 4095) (hm : Memory.wf s.params s.mem = true) :
    ∃ t, exec i s = .next t ∧ (∀ k b, bs[k]? = some b → t.readByte (s.base + k) = b) ∧
      (∀ a, a < s.base ∨ s.base + n < a → t.readByte a = s.readByte a) ∧ t.pc = s.pc + 2 ∧
      OnlyChanges [.mem, .pc] s t := by
  have hbase : s.base + n ≤ 4095 := hin
  have hfits : s.base + bs.length ≤ 4096 := by omega
  refine ⟨_, hexec.trans (checkedAccess_succ_eq_next.mpr ⟨hbase, rfl⟩), fun k b hk => ?stored, fun a ha => ?others, by simp,
    writeBytes_advance_onlyChanges_mem_pc s s.base bs⟩
  case stored => exact readByte_writeBytes_of_getElem? hfits hm hk
  case others => exact readByte_writeBytes_outside hfits hm (by omega)

/-- Writing to an address the byte it already reads as leaves the list as it was (R25). -/
theorem memWrite_of_memRead {p : Params} {a : Nat} :
    ∀ {m : Memory}, Memory.wf p m = true → memWrite p a (memRead p m a) m = m
  | [], _ => by simp [memWrite, memRead, memCons]
  | (c, d) :: rest, h => by
    obtain ⟨_, hd, hlt, hrest⟩ := wf_cons.mp h
    obtain hac | rfl | hca := Nat.lt_trichotomy a c
    · have hunlisted : memRead p ((c, d) :: rest) a = resetByte p a := by
        refine memRead_of_lt p a _ fun x hx => ?_
        obtain rfl | hx := List.mem_cons.mp hx
        · exact hac
        · exact hac.trans (hlt x hx)
      simp [memWrite, hac, memCons, hunlisted]
    · simp [memWrite, memRead, memCons, hd]
    · have hbelow : ¬ a < c := by omega
      simp [memWrite, memRead, hbelow, hca.ne, hca.ne', memWrite_of_memRead hrest]

/-- Writing the bytes that memory already holds leaves the list as it was (R25, R176). -/
theorem memWriteBytes_of_memRead {p : Params} {m : Memory} (hm : Memory.wf p m = true) :
    ∀ {bs : List Byte} {a : Nat}, (∀ k b, bs[k]? = some b → memRead p m (a + k) = b) → memWriteBytes p a bs m = m
  | [], _, _ => rfl
  | b :: bs, a, h => by
    have hfirst : memRead p m a = b := h 0 b rfl
    have hrest : ∀ k c, bs[k]? = some c → memRead p m (a + 1 + k) = c := fun k c hk => by
      rw [Nat.add_right_comm]
      exact h (k + 1) c hk
    rw [memWriteBytes, ← hfirst, memWrite_of_memRead hm]
    exact memWriteBytes_of_memRead hm hrest

/-- Every byte that FX55 stores is the register of its number (R175). -/
theorem reg_of_regsUpTo_getElem? {s : State} {x : RegIdx} {k : Nat} {b : Byte} (h : (s.regsUpTo x)[k]? = some b) :
    ∃ r : RegIdx, r ≤ x ∧ r.val = k ∧ s.reg r = b := by
  have hk : k < x.val + 1 := by
    obtain ⟨hlt, -⟩ := List.getElem?_eq_some_iff.mp h
    rwa [regsUpTo_length] at hlt
  have hle : (⟨k, by omega⟩ : RegIdx) ≤ x := Nat.le_of_lt_succ hk
  exact ⟨_, hle, rfl, Option.some.inj ((regsUpTo_getElem? s hle).symm.trans h)⟩

/-! ### FX55 and FX65 -/

/-- Settles O22: the row is decoded by its trailing byte, and the handler is one checked store of V0 to Vx at I. -/
theorem registerDumpStoresV0ToVx : Obligations.RegisterDumpStoresV0ToVx := by
  refine ⟨decodesAs_of_familyF 0x55#8 (by decide) (by decide) fun _ => decodeFamilyF_registerDump,
    fun x s => ⟨fun hin hm => ?inside, checkedAccess_succ_of_outside _⟩⟩
  case inside =>
    obtain ⟨t, hexec, hstored, hothers, hpc, hframe⟩ :=
      stores_of_exec (exec_registerDump x s) (regsUpTo_length s x) hin hm
    exact ⟨t, hexec, fun k hk => hstored k.val _ (regsUpTo_getElem? s hk), hothers, hpc, hframe⟩

theorem setRegs_advance_onlyChanges_regs_pc (s : State) (v : Vector Byte 16) :
    OnlyChanges [.regs, .pc] s (s.setRegs v).advance := by
  simp [OnlyChanges]

/-- FX65 completes where I + x is in memory, and fills V0 to Vx from there (R176). -/
theorem registerLoad_fills {x : RegIdx} {s : State} (hin : s.idx.toNat + x.val ≤ 4095) :
    ∃ t, exec (.registerLoad x) s = .next t ∧
      (∀ r : RegIdx, t.reg r = if r ≤ x then s.readByte (s.base + r.val) else s.reg r) ∧
      t.pc = s.pc + 2 ∧ OnlyChanges [.regs, .pc] s t :=
  ⟨_, (exec_registerLoad x s).trans (checkedAccess_succ_eq_next.mpr ⟨hin, rfl⟩), reg_loadBytes s s.base x, by simp,
    setRegs_advance_onlyChanges_regs_pc s _⟩

/-- FX55 and then FX65 with the same I, x and memory restore the registers (R176). -/
theorem registerLoad_after_registerDump {x : RegIdx} {s t u : State} (hm : Memory.wf s.params s.mem = true)
    (hdump : exec (.registerDump x) s = .next t) (hmem : u.mem = t.mem) (hparams : u.params = t.params)
    (hidx : u.idx = t.idx) :
    ∃ w, exec (.registerLoad x) u = .next w ∧ ∀ r : RegIdx, r ≤ x → w.reg r = s.reg r := by
  obtain ⟨hin, rfl⟩ := checkedAccess_succ_eq_next.mp hdump
  have hbase : u.base = s.base := congrArg BitVec.toNat hidx
  obtain ⟨w, hexec, hregs, -, -⟩ := registerLoad_fills (x := x) (s := u) (hbase.symm ▸ hin : u.base + x.val ≤ 4095)
  refine ⟨w, hexec, fun r hr => ?_⟩
  have hfits : s.base + (s.regsUpTo x).length ≤ 4096 := by
    rw [regsUpTo_length]
    omega
  calc w.reg r = u.readByte (u.base + r.val) := by rw [hregs r, if_pos hr]
    _ = (s.writeBytes s.base (s.regsUpTo x)).readByte (s.base + r.val) := by
      rw [hbase, readByte_congr hmem hparams, readByte_advance]
    _ = s.reg r := readByte_writeBytes_of_getElem? hfits hm (regsUpTo_getElem? s hr)

/-- FX65 and then FX55 with the same I and x rewrite the bytes that are there (R176). -/
theorem registerDump_after_registerLoad {x : RegIdx} {s t : State} (hm : Memory.wf s.params s.mem = true)
    (hload : exec (.registerLoad x) s = .next t) : ∃ u, exec (.registerDump x) t = .next u ∧ u.mem = s.mem := by
  obtain ⟨hin, rfl⟩ := checkedAccess_succ_eq_next.mp hload
  refine ⟨_, (exec_registerDump x _).trans (checkedAccess_succ_eq_next.mpr ⟨hin, rfl⟩),
    memWriteBytes_of_memRead hm fun k b hk => ?_⟩
  obtain ⟨r, hr, rfl, hb⟩ := reg_of_regsUpTo_getElem? hk
  rw [reg_advance, reg_loadBytes, if_pos hr] at hb
  exact hb

/-- Settles O23: the row is decoded by its trailing byte, the handler is one checked load of V0 to Vx from I, and the two
inverse laws follow from what a byte reads as after a store and from the canonical form of memory. -/
theorem registerLoadFillsV0ToVx : Obligations.RegisterLoadFillsV0ToVx :=
  ⟨decodesAs_of_familyF 0x65#8 (by decide) (by decide) fun _ => decodeFamilyF_registerLoad,
    fun _ _ => ⟨registerLoad_fills, checkedAccess_succ_of_outside _⟩,
    fun _ _ _ _ => registerLoad_after_registerDump,
    fun _ _ _ => registerDump_after_registerLoad⟩

/-! ### FX33 -/

/-- A decimal digit of a byte fits a byte (R174). -/
theorem toNat_ofNat_of_le_byte {b : Byte} {d : Nat} (h : d ≤ b.toNat) : (BitVec.ofNat 8 d).toNat = d :=
  Nat.mod_eq_of_lt (h.trans_lt b.isLt)

/-- Settles O21: the row is decoded by its trailing byte, and the handler is one checked store of the three digits at I. -/
theorem bcdStoreWritesTheThreeDigits : Obligations.BcdStoreWritesTheThreeDigits := by
  refine ⟨decodesAs_of_familyF 0x33#8 (by decide) (by decide) fun _ => decodeFamilyF_bcdStore,
    fun x s => ⟨fun hin hm => ?inside, checkedAccess_succ_of_outside _⟩⟩
  case inside =>
    obtain ⟨t, hexec, hstored, hothers, hpc, hframe⟩ := stores_of_exec (exec_bcdStore x s) rfl hin hm
    refine ⟨t, hexec, ?hundreds, ?tens, ?ones, hothers, hpc, hframe⟩
    case hundreds =>
      rw [← Nat.add_zero s.base, hstored 0 _ rfl]
      exact toNat_ofNat_of_le_byte (Nat.div_le_self ..)
    case tens =>
      rw [hstored 1 _ rfl]
      exact toNat_ofNat_of_le_byte ((Nat.mod_le ..).trans (Nat.div_le_self ..))
    case ones =>
      rw [hstored 2 _ rfl]
      exact toNat_ofNat_of_le_byte (Nat.mod_le ..)

/-! ### ANNN, and one Step by the host after a Load -/

/-- A 12-bit address keeps its value in a word (R82). -/
theorem zextAddr_toNat (nnn : BitVec 12) : (zextAddr nnn).toNat = nnn.toNat :=
  BitVec.toNat_setWidth_of_le (by decide)

theorem setIdx_advance_onlyChanges_idx_pc (s : State) (a : Word) : OnlyChanges [.idx, .pc] s (s.setIdx a).advance := by
  simp [OnlyChanges]

/-- Two bytes stored at pc are the word fetched next, the first of them its high byte (R51, R111). -/
theorem fetchWord_writeBytes_pc {s : State} (hi lo : Byte) (hpc : s.pc.toNat ≤ 4094)
    (hm : Memory.wf s.params s.mem = true) :
    (s.writeBytes s.pc.toNat [hi, lo]).fetchWord = wordOfBytes hi lo := by
  have hfits : s.pc.toNat + [hi, lo].length ≤ 4096 := by
    simp
    omega
  have hhigh := readByte_writeBytes_of_getElem? (k := 0) hfits hm rfl
  have hlow := readByte_writeBytes_of_getElem? (k := 1) hfits hm rfl
  exact congrArg₂ wordOfBytes hhigh hlow

/-- A Load of an image that fits writes its bytes from 0x200 on (R221). -/
theorem hostOp_load_of_le {bytes : List Byte} {s : State} (h : bytes.length ≤ 3584) :
    hostOp (.load bytes) s = (s.writeBytes 0x200 bytes, .ok) :=
  (if_neg (Nat.not_lt.mpr h) : hostLoad bytes s = _)

/-- What the host's Step does and answers where the instruction fetched completes (R110, R116). -/
theorem hostOp_step_of_exec {s u : State} {i : Instr} (h : s.fetchLegal = true) (hd : decodeWord s.fetchWord = .ok i)
    (hu : exec i s = .next u) : hostOp .step s = (u.tick, .status (handlerStatus i s)) := by
  have hstep : step s = .next u.tick := by rw [step_of_decode h hd, hu, finishStep]
  simp only [hostOp, stepState, hstep, stepStatus_of_exec h hd hu]

/-- The word of 0xA0 plus the high nibble and the low byte of nnn is the load-index of nnn (R171). -/
theorem decodeWord_loadIndex_of_bytes {nnn : BitVec 12} {hi lo : Byte} (hhi : hi.toNat = 0xA0 + nnn.toNat / 256)
    (hlo : lo.toNat = nnn.toNat % 256) : decodeWord (wordOfBytes hi lo) = .ok (.loadIndex nnn) := by
  have hlt : nnn.toNat < 4096 := nnn.isLt
  have hword : (wordOfBytes hi lo).toNat = 0xA000 + nnn.toNat := by
    rw [wordOfBytes_toNat]
    omega
  have hop : opField (wordOfBytes hi lo) = 0xA#4 := by
    apply BitVec.eq_of_toNat_eq
    simp only [opField, BitVec.extractLsb'_toNat, hword, Nat.shiftRight_eq_div_pow, BitVec.toNat_ofNat]
    omega
  have hnnn : nnnField (wordOfBytes hi lo) = nnn := by
    apply BitVec.eq_of_toNat_eq
    simp only [nnnField, BitVec.extractLsb'_toNat, hword, Nat.shiftRight_eq_div_pow]
    omega
  rw [decodeWord_loadIndex hop, hnnn]

/-- Settles O18: the row is decoded by its first nibble, the handler is one write of I and the advance, and the two bytes
loaded at 0x200 are the word that the Step from reset fetches. -/
theorem loadIndexSetsTheIndex : Obligations.LoadIndexSetsTheIndex := by
  refine ⟨decodesAs_of_opField 0xA#4 (by decide) fun _ => decodeWord_loadIndex, fun nnn s => ?handler,
    fun nnn hi lo hhi hlo => ?fromReset⟩
  case handler =>
    exact ⟨_, exec_loadIndex nnn s, zextAddr_toNat nnn, by simp, setIdx_advance_onlyChanges_idx_pc s _⟩
  case fromReset =>
    have hload : hostOp (.load [hi, lo]) State.reset = (State.reset.writeBytes 0x200 [hi, lo], .ok) :=
      hostOp_load_of_le (by simp)
    have hfetch : (State.reset.writeBytes 0x200 [hi, lo]).fetchWord = wordOfBytes hi lo :=
      fetchWord_writeBytes_pc (s := State.reset) hi lo (by decide) rfl
    have hdecode := decodeWord_loadIndex_of_bytes hhi hlo
    have hstep := hostOp_step_of_exec rfl (hfetch ▸ hdecode) (exec_loadIndex nnn _)
    have hrun : hostRun [.load [hi, lo], .step] State.reset =
        (((State.reset.writeBytes 0x200 [hi, lo]).setIdx (zextAddr nnn)).advance.tick, [.ok, .status .ok]) := by
      simp only [hostRun, hload, hstep, handlerStatus]
    exact ⟨_, hrun, zextAddr_toNat nnn, rfl⟩

end Sys2Proof.Proofs

/-! SUPPORT. The shape of the proofs about the timers (spec 46_keys_timers.md): a Step whose instruction completes is its
handler and then one decrement of each timer. -/

namespace Sys2Proof.Proofs

open Sys2Proof.Machine Sys2Proof.Claims

theorem decodeFamilyF_readDelay {w : Word} (h : nnField w = 0x07#8) : decodeFamilyF w = .ok (.readDelay (xField w)) := by
  simp only [decodeFamilyF, h]

theorem exec_readDelay (x : RegIdx) (s : State) : exec (.readDelay x) s = .next (s.setReg x s.dt).advance := rfl

/-- The timers count down after the handler of the instruction fetched, not before it (R110, R114). -/
theorem step_of_fetches_of_exec {s u : State} {i : Instr} (hf : Fetches s i) (hexec : exec i s = .next u) :
    step s = .next u.tick := by
  obtain ⟨hpc, hdecode⟩ := hf
  rw [step_of_decode (fetchLegal_iff.mpr hpc) hdecode, hexec, finishStep]

/-- Settles O31: the row is decoded by its trailing byte, the handler is one register write and the advance, and the Step's
decrement comes after it, so that Vx keeps the value read. -/
theorem readDelayReadsBeforeTheDecrement : Obligations.ReadDelayReadsBeforeTheDecrement := by
  refine ⟨decodesAs_of_familyF 0x07#8 (by decide) (by decide) fun _ => decodeFamilyF_readDelay,
    fun x s => writesOneRegister_of_exec (exec_readDelay x s) rfl, fun x s hf => ?step⟩
  case step => exact ⟨_, step_of_fetches_of_exec hf (exec_readDelay x s), by simp, by simp⟩

end Sys2Proof.Proofs

/-! SUPPORT. The shape of the proofs about the host's operations (spec 47_host_operations.md): what `hostOp` answers, one equation
per operation and case, and what the state updates it runs leave as they were. -/

namespace Sys2Proof.Proofs

open Sys2Proof.Machine Sys2Proof.Claims

/-! ### SetKey -/

/-- SetKey of an index that names a key writes that key and answers ok (R225). -/
theorem hostOp_setKey_of_le {index : Nat} (pressed : Bool) (s : State) (h : index ≤ 15) :
    hostOp (.setKey index pressed) s = (s.setKeyTo index pressed, .ok) :=
  (if_neg (Nat.not_lt.mpr h) : hostSetKey index pressed s = _)

/-- SetKey of an index that names no key changes nothing and answers INVALID_KEY_INDEX (R225). -/
theorem hostOp_setKey_of_gt {index : Nat} (pressed : Bool) (s : State) (h : 15 < index) :
    hostOp (.setKey index pressed) s = (s, .invalidKeyIndex) :=
  (if_pos h : hostSetKey index pressed s = _)

/-- Setting a key to the level it already has changes nothing (R225). -/
theorem setKeyTo_keyDown {k : Nat} (s : State) (hk : k < 16) : s.setKeyTo k (s.keyDown k) = s := by
  have hlevel : s.keyDown k = s.keys[k] := by simp [State.keyDown, Vector.getD, hk]
  have hkeys : s.keys.setIfInBounds k (s.keyDown k) = s.keys := by
    ext j hj
    rw [Vector.getElem_setIfInBounds, ite_eq_right_iff]
    rintro rfl
    exact hlevel
  unfold State.setKeyTo
  rw [hkeys]

/-- Settles O55: an index of at most 15 is one write of that key, which the other keys and the other fields do not see, and a
greater one is rejected before any write. -/
theorem setKeyWritesOneKey : Obligations.SetKeyWritesOneKey := by
  refine fun index pressed s => ⟨fun hle => ?named, hostOp_setKey_of_gt pressed s⟩
  case named =>
    have hlt : index < 16 := Nat.lt_succ_of_le hle
    refine ⟨_, hostOp_setKey_of_le pressed s hle, fun k _ => ?keys, rfl, fun hlevel => ?same⟩
    case keys => rw [keyDown_setKeyTo s index k pressed hlt, if_congr eq_comm rfl rfl]
    case same => rw [← hlevel, setKeyTo_keyDown s hlt]

/-! ### ReadAndClearDrawFlag -/

/-- The read answers DIRTY and clears it (R223). -/
theorem hostOp_readAndClearDrawFlag (s : State) :
    hostOp .readAndClearDrawFlag s = (s.setDirty false, .flag s.dirty) := rfl

/-- Two reads of the draw flag: the first answers DIRTY, the second false (R223). -/
theorem hostRun_readAndClearDrawFlag_twice (s : State) :
    hostRun [.readAndClearDrawFlag, .readAndClearDrawFlag] s = (s.setDirty false, [.flag s.dirty, .flag false]) := rfl

/-- A draw that completes has set DIRTY, whatever it held before (R192). -/
theorem dirty_of_exec_drawSprite {x y n : Fin 16} {s t : State} (h : exec (.drawSprite x y n) s = .next t) :
    t.dirty = true := by
  have hdraw : execDrawSprite x y n s = .next t := h
  obtain ⟨-, rfl⟩ := checkedAccess_eq_next.mp hdraw
  simp

/-- Settles O56: the read is one write of DIRTY, a completed draw has set DIRTY, and each of the other four reads answers with
the state it was given. -/
theorem theDrawFlagIsReadOnce : Obligations.TheDrawFlagIsReadOnce := by
  refine ⟨fun s => ⟨_, hostOp_readAndClearDrawFlag s, setDirty_dirty s false, rfl, hostOp_readAndClearDrawFlag _⟩,
    fun x y n s t hexec => ?afterDraw, fun op s hop => ?otherReads⟩
  case afterDraw =>
    have hreads := hostRun_readAndClearDrawFlag_twice t
    rw [dirty_of_exec_drawSprite hexec] at hreads
    exact ⟨_, hreads⟩
  case otherReads => obtain rfl | rfl | rfl | rfl := hop <;> rfl

end Sys2Proof.Proofs

/-! SUPPORT. What a handler answers, said once for all 34 instructions (spec 40_step_cycle.md R112, 60_exceptions.md R241): its cause
of the table where it has one, and else the state it commits. -/

namespace Sys2Proof.Proofs

open Sys2Proof.Machine Sys2Proof.Claims

/-- The state that the handler of an instruction commits where the table of R241 gives it no cause; `exec_eq` ties it to `exec`. -/
def effect (i : Instr) (s : State) : State :=
  match i with
  | .clearScreen => (s.setFb Framebuffer.blank).advance
  | .ret => (s.setStack s.stack.tail).setPc (s.stack.headD 0 + 2)
  | .jump nnn => s.setPc (zextAddr nnn)
  | .call nnn => (s.push s.pc).setPc (zextAddr nnn)
  | .skipEqImm x nn => s.skipIf (s.reg x == nn)
  | .skipNeImm x nn => s.skipIf (s.reg x != nn)
  | .skipEqReg x y => s.skipIf (s.reg x == s.reg y)
  | .loadImm x nn => (s.setReg x nn).advance
  | .addImm x nn => (s.setReg x (s.reg x + nn)).advance
  | .move x y => (s.setReg x (s.reg y)).advance
  | .orReg x y => (s.setReg x (s.reg x ||| s.reg y)).advance
  | .andReg x y => (s.setReg x (s.reg x &&& s.reg y)).advance
  | .xorReg x y => (s.setReg x (s.reg x ^^^ s.reg y)).advance
  | .addReg x y => (s.flagThen (carryFlag (s.reg x) (s.reg y)) x (fun _ => s.reg x + s.reg y)).advance
  | .subReg x y => (s.flagThen (noBorrowFlag (s.reg x) (s.reg y)) x (fun t => t.reg x - t.reg y)).advance
  | .shiftRight x _ => (s.flagThen (shiftedOutLow (s.reg x)) x (fun t => t.reg x >>> 1)).advance
  | .subReverse x y => (s.flagThen (greaterFlag (s.reg x) (s.reg y)) x (fun t => t.reg y - t.reg x)).advance
  | .shiftLeft x _ => (s.flagThen (shiftedOutHigh (s.reg x)) x (fun t => t.reg x <<< 1)).advance
  | .skipNeReg x y => s.skipIf (s.reg x != s.reg y)
  | .loadIndex nnn => (s.setIdx (zextAddr nnn)).advance
  | .jumpOffset nnn => s.setPc (zextReg (s.reg 0) + zextAddr nnn)
  | .randomAnd x nn => s.drawn.randomAnd x nn (Config.randomByte s.draws)
  | .drawSprite x y n =>
    (((s.setFlag (flagByte (s.spriteCanvas x y n).hit)).setFb (s.spriteCanvas x y n).fb).setDirty true).advance
  | .skipIfPressed x => s.skipIf (s.keyDown (s.reg x).toNat)
  | .skipIfNotPressed x => s.skipIf (!s.keyDown (s.reg x).toNat)
  | .readDelay x => (s.setReg x s.dt).advance
  | .awaitKey x => s.firstKey.elim s fun k => (s.setReg x (BitVec.ofNat 8 k)).advance
  | .setDelay x => (s.setDt (s.reg x)).advance
  | .setSound x => (s.setSt (s.reg x)).advance
  | .addToIndex x => (s.setIdx (s.idx + zextReg (s.reg x))).advance
  | .fontAddress x => (s.setIdx (glyphAddress s.params (s.reg x))).advance
  | .bcdStore x => (s.writeBytes s.base (bcdDigits (s.reg x))).advance
  | .registerDump x => (s.writeBytes s.base (s.regsUpTo x)).advance
  | .registerLoad x => (s.setRegs (loadRegs s.v 0 (s.readBytes s.base (x.val + 1)))).advance

/-- A checked access whose condition the table states as `outside`: the fault there, the rest of the instruction elsewhere (R58,
R243). -/
theorem checkedAccess_eq_elim {a n : Nat} {t : State} {outside : Prop} [Decidable outside]
    (h : outside ↔ n ≠ 0 ∧ 4095 < a + n - 1) :
    checkedAccess a n t = (if outside then some Fault.memOutOfBounds else none).elim (.next t) .fault := by
  by_cases hout : outside
  · have hillegal : accessLegal a n = false := by
      rw [Bool.eq_false_iff, ne_eq, accessLegal_iff]
      have := h.mp hout
      omega
    simp [hout, checkedAccess_eq_fault.mpr ⟨hillegal, rfl⟩]
  · have hlegal : accessLegal a n = true := accessLegal_iff.mpr (by by_contra hn; exact hout (h.mpr (by omega)))
    simp [hout, checkedAccess_eq_next.mpr ⟨hlegal, rfl⟩]

/-- A key instruction faults above 15 and goes on elsewhere (R246). -/
theorem withKeyIndex_eq_elim (k : Byte) (t : State) :
    withKeyIndex k t = (if k.toNat > 15 then some Fault.keyIndexRange else none).elim (.next t) .fault := by
  unfold withKeyIndex
  split <;> rfl

/-- What every handler answers: the cause that the table of R241 gives, and where it gives none the state after the instruction. -/
theorem exec_eq (i : Instr) (s : State) : exec i s = (faultCause i s).elim (.next (effect i s)) .fault := by
  cases i
  case ret =>
    show execRet s = _
    unfold execRet
    split
    · next h => simp [faultCause, State.sp, h, raiseFault]
    · next r rest h => simp [faultCause, effect, State.sp, h]
  case call nnn =>
    simp only [exec, execCall, faultCause, effect]
    split <;> rfl
  case awaitKey x =>
    simp only [exec, execAwaitKey, faultCause, effect]
    cases s.firstKey <;> rfl
  case skipIfPressed x => exact withKeyIndex_eq_elim _ _
  case skipIfNotPressed x => exact withKeyIndex_eq_elim _ _
  case drawSprite x y n => exact checkedAccess_eq_elim (by rw [State.base]; omega)
  case bcdStore x => exact checkedAccess_eq_elim (by rw [State.base]; omega)
  case registerDump x => exact checkedAccess_eq_elim (by rw [State.base]; omega)
  case registerLoad x => exact checkedAccess_eq_elim (by rw [State.base]; omega)
  all_goals rfl

/-- A handler answers a next state exactly where the table gives it no cause, and then the state after the instruction. -/
theorem exec_eq_next_iff {i : Instr} {s t : State} : exec i s = .next t ↔ faultCause i s = none ∧ t = effect i s := by
  rw [exec_eq]
  cases faultCause i s <;> simp [eq_comm]

/-- A handler faults exactly where the table gives it a cause, and with that cause. -/
theorem exec_eq_fault_iff {i : Instr} {s : State} {f : Fault} : exec i s = .fault f ↔ faultCause i s = some f := by
  rw [exec_eq]
  cases faultCause i s <;> simp

/-- No handler refuses. -/
theorem exec_ne_refused (i : Instr) (s : State) (r : Refusal) : exec i s ≠ .refused r := by
  rw [exec_eq]
  cases faultCause i s <;> simp

/-- An instruction completes where the table gives it no cause. -/
theorem exec_of_faultCause {i : Instr} {s : State} (h : faultCause i s = none) : exec i s = .next (effect i s) :=
  exec_eq_next_iff.mpr ⟨h, rfl⟩

/-- Settles O44: a handler answers a next state exactly where the table gives it no cause. -/
theorem everyInstructionCompletesUnlessItFaults : Obligations.EveryInstructionCompletesUnlessItFaults := by
  intro i s
  constructor
  · rintro ⟨t, ht⟩
    exact (exec_eq_next_iff.mp ht).1
  · exact fun h => ⟨_, exec_of_faultCause h⟩

/-! ### Steps -/

/-- A Step that fetches an instruction is its handler and the decrement of the timers (R110). -/
theorem step_of_fetches {s : State} {i : Instr} (hf : Fetches s i) : step s = finishStep (exec i s) :=
  step_of_decode (fetchLegal_iff.mpr hf.1) hf.2

/-- What every Step does: it cannot fetch, or it runs the instruction fetched, or it passes over an unknown opcode (R110). -/
theorem step_trichotomy (s : State) :
    (4094 < s.pc.toNat ∧ step s = .fault .fetchOutOfBounds) ∨
    (∃ i, Fetches s i ∧ step s = finishStep (exec i s)) ∨
    (s.pc.toNat ≤ 4094 ∧ decodeWord s.fetchWord = .error (.unknownOpcode s.fetchWord) ∧ step s = .next s.advance.tick) := by
  by_cases hpc : s.pc.toNat ≤ 4094
  · cases hd : decodeWord s.fetchWord with
    | ok i => exact .inr (.inl ⟨i, ⟨hpc, hd⟩, step_of_fetches ⟨hpc, hd⟩⟩)
    | error e =>
      obtain rfl := decodeWord_error hd
      exact .inr (.inr ⟨hpc, rfl, step_of_unknown (fetchLegal_iff.mpr hpc) hd⟩)
  · have hillegal : s.fetchLegal = false := by rwa [Bool.eq_false_iff, ne_eq, fetchLegal_iff]
    exact .inl ⟨by omega, step_of_not_fetchLegal hillegal⟩

/-- Everything a Step that commits can be: the effect of the instruction fetched, or the advance past an unknown opcode, and then
the timers. -/
theorem step_eq_next {s t : State} (h : step s = .next t) :
    (∃ i, Fetches s i ∧ faultCause i s = none ∧ t = (effect i s).tick) ∨
    (s.pc.toNat ≤ 4094 ∧ (∀ i, ¬ Fetches s i) ∧ t = s.advance.tick) := by
  obtain ⟨-, hs⟩ | ⟨i, hf, hs⟩ | ⟨hpc, hd, hs⟩ := step_trichotomy s
  · rw [hs] at h
    cases h
  · obtain ⟨u, hu, rfl⟩ := finishStep_eq_next.mp (hs ▸ h)
    obtain ⟨hnone, rfl⟩ := exec_eq_next_iff.mp hu
    exact .inl ⟨i, hf, hnone, rfl⟩
  · obtain rfl : s.advance.tick = t := by simpa [hs] using h
    refine .inr ⟨hpc, fun i hf => ?_, rfl⟩
    rw [hf.2] at hd
    cases hd

/-- No Step refuses (R112). -/
theorem step_ne_refused (s : State) (r : Refusal) : step s ≠ .refused r := by
  obtain ⟨-, hs⟩ | ⟨i, -, hs⟩ | ⟨-, -, hs⟩ := step_trichotomy s
  · simp [hs]
  · rw [hs, ne_eq, finishStep_eq_refused]
    exact exec_ne_refused i s r
  · simp [hs]

/-- Settles O43: a Step cannot fetch, or its instruction's handler answers the table's cause, or its word is an unknown opcode,
which never faults. -/
theorem aStepFaultsExactlyWhereTheTableSays : Obligations.AStepFaultsExactlyWhereTheTableSays := by
  refine ⟨fun s f => ⟨fun h => ?faults, ?table⟩, step_ne_refused⟩
  case faults =>
    obtain ⟨hpc, hs⟩ | ⟨i, hf, hs⟩ | ⟨-, -, hs⟩ := step_trichotomy s
    · exact .inl ⟨hpc, by simpa [hs, eq_comm] using h⟩
    · exact .inr ⟨i, hf, exec_eq_fault_iff.mp (finishStep_eq_fault.mp (hs ▸ h))⟩
    · simp [hs] at h
  case table =>
    rintro (⟨hpc, rfl⟩ | ⟨i, hf, hcause⟩)
    · exact step_of_not_fetchLegal (by rw [Bool.eq_false_iff, ne_eq, fetchLegal_iff]; omega)
    · rw [step_of_fetches hf, exec_eq_fault_iff.mpr hcause, finishStep]

end Sys2Proof.Proofs

/-! SUPPORT. What an instruction's effect is on each part of the state (spec 10_state.md R20, 40_step_cycle.md R113): the parts that it
writes, the registers, the flag and pc. -/

namespace Sys2Proof.Proofs

open Sys2Proof.Machine Sys2Proof.Claims

/-! ### The parts -/

/-- A frame holds for every longer list of parts, in any order. -/
theorem onlyChanges_mono {l l' : List Part} {s t : State} (hsub : l ⊆ l') (h : OnlyChanges l s t) : OnlyChanges l' s t := by
  obtain ⟨hmem, hregs, hidx, hpc, hstack, hdt, hst, hfb, hdirty, hdraws, hkeys, hparams⟩ := h
  exact ⟨hmem.imp_left (hsub ·), hregs.imp_left (hsub ·), hidx.imp_left (hsub ·), hpc.imp_left (hsub ·), hstack.imp_left (hsub ·),
    hdt.imp_left (hsub ·), hst.imp_left (hsub ·), hfb.imp_left (hsub ·), hdirty.imp_left (hsub ·), hdraws.imp_left (hsub ·),
    hkeys, hparams⟩

@[simp] theorem readByte_randomAnd (s : State) (x : RegIdx) (nn r : Byte) (a : Nat) :
    (s.randomAnd x nn r).readByte a = s.readByte a := rfl

@[simp] theorem reg_randomAnd (s : State) (x y : RegIdx) (nn r : Byte) :
    (s.randomAnd x nn r).reg y = if x = y then nn &&& r else s.reg y :=
  reg_setReg s x y (nn &&& r)

/-- An instruction's effect is on the parts of which it is a named writer (R20, R64). -/
theorem effect_onlyChanges (i : Instr) (s : State) : OnlyChanges (mayChange i) s (effect i s) := by
  cases i
  case awaitKey x => cases h : s.firstKey <;> simp [OnlyChanges, mayChange, effect, h]
  all_goals simp [OnlyChanges, mayChange, effect]

/-- No instruction writes the parameters (R6). -/
theorem effect_params (i : Instr) (s : State) : (effect i s).params = s.params := by
  obtain ⟨-, -, -, -, -, -, -, -, -, -, -, hparams⟩ := effect_onlyChanges i s
  exact hparams

/-- DT is written by `set-delay` only (R27). -/
theorem effect_dt {i : Instr} (s : State) (h : ∀ x, i ≠ .setDelay x) : (effect i s).dt = s.dt := by
  obtain ⟨-, -, -, -, -, hdt, -⟩ := effect_onlyChanges i s
  refine hdt.resolve_left ?_
  cases i
  case setDelay x => exact absurd rfl (h x)
  all_goals simp [mayChange]

/-- ST is written by `set-sound` only (R28). -/
theorem effect_st {i : Instr} (s : State) (h : ∀ x, i ≠ .setSound x) : (effect i s).st = s.st := by
  obtain ⟨-, -, -, -, -, -, hst, -⟩ := effect_onlyChanges i s
  refine hst.resolve_left ?_
  cases i
  case setSound x => exact absurd rfl (h x)
  all_goals simp [mayChange]

/-- Settles O40: what a handler commits is the instruction's effect. -/
theorem onlyTheNamedWritersChangeEachPart : Obligations.OnlyTheNamedWritersChangeEachPart := by
  intro i s t h
  obtain ⟨-, rfl⟩ := exec_eq_next_iff.mp h
  exact effect_onlyChanges i s

/-! ### Registers and the flag -/

/-- A register that is neither a named destination nor an implicitly written VF keeps its value (R21, R22). -/
theorem effect_reg {i : Instr} {r : RegIdx} (s : State) (hdest : ¬ destinations i r) (hflag : r = 15 → ¬ writesFlag i) :
    (effect i s).reg r = s.reg r := by
  cases i
  case awaitKey x =>
    cases h : s.firstKey
    · simp [effect, h]
    · simp [effect, h, Ne.symm hdest]
  case registerLoad x =>
    exact (reg_loadBytes s s.base x r).trans (if_neg hdest)
  case loadImm | addImm | move | orReg | andReg | xorReg | readDelay | randomAnd =>
    simp [effect, Ne.symm hdest]
  case addReg | subReg | shiftRight | subReverse | shiftLeft =>
    have hvF : vF ≠ r := fun h => hflag h.symm trivial
    simp [effect, Ne.symm hdest, hvF]
  case drawSprite x y n =>
    have hvF : vF ≠ r := fun h => hflag h.symm trivial
    simp [effect, hvF]
  all_goals rfl

/-- Settles O41: what a handler commits is the instruction's effect. -/
theorem registersChangeOnlyAsDestinationsOrAsTheFlag : Obligations.RegistersChangeOnlyAsDestinationsOrAsTheFlag := by
  intro i s t h r hdest hflag
  obtain ⟨-, rfl⟩ := exec_eq_next_iff.mp h
  exact effect_reg s hdest hflag

theorem flagByte_zero_or_one (b : Bool) : flagByte b = 0 ∨ flagByte b = 1 := by
  cases b <;> simp [flagByte]

theorem noBorrowFlag_zero_or_one (a b : Byte) : noBorrowFlag a b = 0 ∨ noBorrowFlag a b = 1 := by
  unfold noBorrowFlag
  split <;> simp

/-- The bit shifted out at the right, as a number (R159). -/
theorem shiftedOutLow_toNat (a : Byte) : (shiftedOutLow a).toNat = a.toNat % 2 := by
  simp [shiftedOutLow]

/-- The bit shifted out at the left, as a number (R161). -/
theorem shiftedOutHigh_toNat (a : Byte) : (shiftedOutHigh a).toNat = a.toNat / 128 := by
  have hshift : shiftedOutHigh a = a >>> 7 := by
    ext i hi
    interval_cases i <;> simp [shiftedOutHigh]
  rw [hshift, BitVec.toNat_ushiftRight, Nat.shiftRight_eq_div_pow]

/-- A flag below 2 is 0 or 1 (R22). -/
theorem zero_or_one_of_toNat_lt_two {f : Byte} (h : f.toNat < 2) : f = 0 ∨ f = 1 := by
  obtain h | h : f.toNat = 0 ∨ f.toNat = 1 := by omega
  · exact .inl (BitVec.eq_of_toNat_eq h)
  · exact .inr (BitVec.eq_of_toNat_eq h)

/-- Where VF is not the destination, the flag written first is what it keeps (R150). -/
theorem reg_vF_flagThen {s : State} {f : Byte} {x : RegIdx} {g : State → Byte} (hx : ¬ (15 : RegIdx) = x) :
    (s.flagThen f x g).advance.reg 15 = f := by
  simp [Ne.symm hx]

/-- Settles O42: each implicit writer's flag is one of its five flag values, and the result goes to another register. -/
theorem theFlagIsZeroOrOne : Obligations.TheFlagIsZeroOrOne := by
  intro i s t h hwrites hdest
  obtain ⟨-, rfl⟩ := exec_eq_next_iff.mp h
  cases i
  case addReg x y =>
    rw [effect, reg_vF_flagThen hdest]
    exact flagByte_zero_or_one _
  case subReg x y =>
    rw [effect, reg_vF_flagThen hdest]
    exact noBorrowFlag_zero_or_one _ _
  case shiftRight x y =>
    rw [effect, reg_vF_flagThen hdest]
    exact zero_or_one_of_toNat_lt_two (by rw [shiftedOutLow_toNat]; omega)
  case subReverse x y =>
    rw [effect, reg_vF_flagThen hdest]
    exact flagByte_zero_or_one _
  case shiftLeft x y =>
    rw [effect, reg_vF_flagThen hdest]
    exact zero_or_one_of_toNat_lt_two (by rw [shiftedOutHigh_toNat]; omega)
  case drawSprite x y n =>
    simpa [effect] using flagByte_zero_or_one (s.spriteCanvas x y n).hit
  all_goals exact hwrites.elim

/-! ### The program counter -/

/-- A 12-bit address as a word (R82). -/
theorem zextAddr_eq_ofNat (nnn : BitVec 12) : zextAddr nnn = BitVec.ofNat 16 nnn.toNat :=
  BitVec.eq_of_toNat_eq (by rw [zextAddr_toNat, BitVec.toNat_ofNat]; omega)

/-- V0 and a 12-bit address sum to less than 65536, so the word of the sum is not reduced (R134). -/
theorem zextReg_add_zextAddr_toNat (b : Byte) (nnn : BitVec 12) : (zextReg b + zextAddr nnn).toNat = b.toNat + nnn.toNat := by
  have hb : (zextReg b).toNat = b.toNat := BitVec.toNat_setWidth_of_le (by decide)
  rw [BitVec.toNat_add, hb, zextAddr_toNat]
  omega

/-- The pc that an instruction leaves is the table's (R113). -/
theorem effect_pc (i : Instr) (s : State) : (effect i s).pc = nextPc i s := by
  cases i
  case jump nnn => exact zextAddr_eq_ofNat nnn
  case call nnn => exact zextAddr_eq_ofNat nnn
  case jumpOffset nnn =>
    refine BitVec.eq_of_toNat_eq ((zextReg_add_zextAddr_toNat (s.reg 0) nnn).trans ?_)
    rw [nextPc, BitVec.toNat_ofNat]
    omega
  case skipEqImm | skipEqReg => simp [effect, nextPc]
  case skipNeImm | skipNeReg => simp [effect, nextPc]
  case skipIfNotPressed x => cases h : s.keyDown (s.reg x).toNat <;> simp [effect, nextPc, h]
  case awaitKey x =>
    cases h : s.firstKey with
    | none =>
      have hnone := firstKey_eq_none.mp h
      simp +contextual [effect, nextPc, h, hnone]
    | some k =>
      obtain ⟨hk, hdown, -⟩ := firstKey_eq_some.mp h
      have hex : ∃ k < 16, s.keyDown k = true := ⟨k, hk, hdown⟩
      simp [effect, nextPc, h, hex]
  all_goals rfl

/-- Settles O39: a handler commits the instruction's effect, the Step's timers leave pc alone, and an unknown opcode is an
advance. -/
theorem thePcFollowsTheTable : Obligations.ThePcFollowsTheTable := by
  refine ⟨fun i s t h => ?handler, fun i s t hf h => ?step, fun s t hunknown h => ?unknown⟩
  case handler =>
    obtain ⟨-, rfl⟩ := exec_eq_next_iff.mp h
    exact effect_pc i s
  case step =>
    rw [step_of_fetches hf] at h
    obtain ⟨u, hu, rfl⟩ := finishStep_eq_next.mp h
    obtain ⟨-, rfl⟩ := exec_eq_next_iff.mp hu
    exact effect_pc i s
  case unknown =>
    obtain ⟨i, hf, -⟩ | ⟨-, -, rfl⟩ := step_eq_next h
    · exact absurd hf.2 (hunknown i)
    · rfl

/-! ### The timers -/

/-- Settles O34: every Step that commits ends in one decrement, of the timers that the instruction left. -/
theorem timersRiseOnlyBySetDelayAndSetSound : Obligations.TimersRiseOnlyBySetDelayAndSetSound := by
  intro s t h
  obtain ⟨i, ⟨-, hdecode⟩, -, rfl⟩ | ⟨-, -, rfl⟩ := step_eq_next h
  · refine ⟨fun hdelay => ?_, fun hsound => ?_⟩
    · rw [tick_dt, countDown_toNat, effect_dt s fun x hi => hdelay x (hi ▸ hdecode)]
    · rw [tick_st, countDown_toNat, effect_st s fun x hi => hsound x (hi ▸ hdecode)]
  · exact ⟨fun _ => countDown_toNat s.dt, fun _ => countDown_toNat s.st⟩

/-- Settles O33, by induction on the number of Steps: each lowers DT by one or leaves it at 0. -/
theorem delayCountsDownOnceAStep : Obligations.DelayCountsDownOnceAStep := by
  intro j
  induction j with
  | zero =>
    rintro s t rfl
    rfl
  | succ j ih =>
    rintro s t ⟨u, hstep, hdelay, hrest⟩
    rw [ih u t hrest, (timersRiseOnlyBySetDelayAndSetSound s u hstep).1 hdelay, Nat.sub_sub, Nat.add_comm]

end Sys2Proof.Proofs

/-! SUPPORT. What a Step does not read (spec 40_step_cycle.md R120, 10_state.md R28): the draw counter, but for `random-and`, and the
sound timer, which no operation of the host observes either. -/

namespace Sys2Proof.Proofs

open Sys2Proof.Machine Sys2Proof.Claims

/-- States that fetch the same word from the same pc take the same kind of Step (R110, R111). -/
theorem step_alike {s s' : State} (hpc : s'.pc = s.pc) (hword : s'.fetchWord = s.fetchWord) :
    (step s = .fault .fetchOutOfBounds ∧ step s' = .fault .fetchOutOfBounds) ∨
    (∃ i, Fetches s i ∧ step s = finishStep (exec i s) ∧ step s' = finishStep (exec i s')) ∨
    (step s = .next s.advance.tick ∧ step s' = .next s'.advance.tick) := by
  obtain ⟨hgt, hs⟩ | ⟨i, ⟨hle, hd⟩, hs⟩ | ⟨hle, hd, hs⟩ := step_trichotomy s
  · have hillegal : s'.fetchLegal = false := by
      rw [Bool.eq_false_iff, ne_eq, fetchLegal_iff, hpc]
      omega
    exact .inl ⟨hs, step_of_not_fetchLegal hillegal⟩
  · have hf' : Fetches s' i := ⟨hpc ▸ hle, hword ▸ hd⟩
    exact .inr (.inl ⟨i, ⟨hle, hd⟩, hs, step_of_fetches hf'⟩)
  · exact .inr (.inr ⟨hs, step_of_unknown (fetchLegal_iff.mpr (hpc ▸ hle)) (hword ▸ hd)⟩)

/-! ### The draw -/

/-- No fault depends on the draw (R241). -/
theorem faultCause_withDraws (i : Instr) (s : State) (d : Nat) : faultCause i { s with draws := d } = faultCause i s := by
  cases i <;> rfl

/-- Every instruction but `random-and` does the same whatever would be drawn (R120). -/
theorem effect_withDraws {i : Instr} (s : State) (d : Nat) (h : ∀ x nn, i ≠ .randomAnd x nn) :
    effect i { s with draws := d } = { effect i s with draws := d } := by
  cases i
  case randomAnd x nn => exact absurd rfl (h x nn)
  case awaitKey x =>
    have hkey : State.firstKey { s with draws := d } = s.firstKey := rfl
    simp only [effect, hkey]
    cases s.firstKey <;> rfl
  all_goals rfl

/-- Settles O49: the fetch, the fault and the effect are the same whatever would be drawn, and so is the decrement after them. -/
theorem onlyRandomAndReadsTheDraw : Obligations.OnlyRandomAndReadsTheDraw := by
  intro s d h
  obtain ⟨hs, hs'⟩ | ⟨i, hf, hs, hs'⟩ | ⟨hs, hs'⟩ := step_alike (s := s) (s' := { s with draws := d }) rfl rfl
  · rw [hs, hs', mapNext]
  · have hi : ∀ x nn, i ≠ .randomAnd x nn := fun x nn hx => h x nn (hx ▸ hf.2)
    rw [hs, hs', exec_eq, exec_eq, faultCause_withDraws, effect_withDraws s d hi]
    cases faultCause i s <;> rfl
  · rw [hs, hs']
    rfl

/-! ### The sound timer -/

/-- No fault depends on ST (R241). -/
theorem faultCause_withSt (i : Instr) (s : State) (b : Byte) : faultCause i { s with st := b } = faultCause i s := by
  cases i <;> rfl

/-- Every instruction leaves the same state whatever ST held, but for ST itself (R28). -/
theorem effect_withSt (i : Instr) (s : State) (b : Byte) :
    ∃ b', effect i { s with st := b } = { effect i s with st := b' } := by
  cases i
  case setSound x => exact ⟨s.reg x, rfl⟩
  case awaitKey x =>
    have hkey : State.firstKey { s with st := b } = s.firstKey := rfl
    refine ⟨b, ?_⟩
    simp only [effect, hkey]
    cases s.firstKey <;> rfl
  all_goals exact ⟨b, rfl⟩

/-- A Step answers the same whatever ST held, but for ST itself. -/
theorem step_withSt (s : State) (b : Byte) :
    ∃ b', step { s with st := b } = mapNext (fun t => { t with st := b' }) (step s) := by
  obtain ⟨hs, hs'⟩ | ⟨i, -, hs, hs'⟩ | ⟨hs, hs'⟩ := step_alike (s := s) (s' := { s with st := b }) rfl rfl
  · exact ⟨b, by rw [hs, hs', mapNext]⟩
  · obtain ⟨b', heffect⟩ := effect_withSt i s b
    refine ⟨countDown b', ?_⟩
    rw [hs, hs', exec_eq, exec_eq, faultCause_withSt, heffect]
    cases faultCause i s <;> rfl
  · exact ⟨countDown b, by rw [hs, hs']; rfl⟩

/-- The status of a Step does not depend on ST. -/
theorem stepStatus_withSt (s : State) (b : Byte) : stepStatus { s with st := b } = stepStatus s := by
  have hhandler (i : Instr) : handlerStatus i { s with st := b } = handlerStatus i s := by
    rw [handlerStatus_eq, handlerStatus_eq]
    rfl
  have hword : State.fetchWord { s with st := b } = s.fetchWord := rfl
  obtain ⟨b', hstep⟩ := step_withSt s b
  unfold stepStatus
  rw [hstep, hword]
  simp only [hhandler]
  cases step s <;> rfl

/-- Every operation of the host answers the same whatever ST held, and leaves the same state but for ST (R28). -/
theorem hostOp_withSt (op : HostOp) (s : State) (b : Byte) :
    ∃ b', hostOp op { s with st := b } = ({ (hostOp op s).1 with st := b' }, (hostOp op s).2) := by
  cases op
  case reset => exact ⟨0, rfl⟩
  case load bytes =>
    refine ⟨b, ?_⟩
    simp only [hostOp, hostLoad]
    split <;> rfl
  case setKey index pressed =>
    refine ⟨b, ?_⟩
    simp only [hostOp, hostSetKey]
    split <;> rfl
  case step =>
    obtain ⟨b', hstep⟩ := step_withSt s b
    cases h : step s with
    | next t => exact ⟨b', by simp only [hostOp, stepStatus_withSt, stepState, hstep, h, mapNext]⟩
    | fault f => exact ⟨b, by simp only [hostOp, stepStatus_withSt, stepState, hstep, h, mapNext]⟩
    | refused r => exact absurd h (step_ne_refused s r)
  all_goals exact ⟨b, rfl⟩

/-- A run of the host from states that differ in ST. -/
theorem hostRun_withSt (ops : List HostOp) (s : State) (b : Byte) :
    ∃ b', hostRun ops { s with st := b } = ({ (hostRun ops s).1 with st := b' }, (hostRun ops s).2) := by
  induction ops generalizing s b with
  | nil => exact ⟨b, rfl⟩
  | cons op ops ih =>
    obtain ⟨b₁, hop⟩ := hostOp_withSt op s b
    obtain ⟨b₂, hrest⟩ := ih (hostOp op s).1 b₁
    exact ⟨b₂, by simp only [hostRun, hop, hrest]⟩

/-- Settles O50, by induction on the operations: each answers the same and hands on a state that differs in ST at most. -/
theorem nothingObservesTheSoundTimer : Obligations.NothingObservesTheSoundTimer := by
  intro ops s b
  obtain ⟨b', hrun⟩ := hostRun_withSt ops s b
  rw [hrun]
  exact ⟨rfl, rfl⟩

end Sys2Proof.Proofs

/-! SUPPORT. The invariant (spec 10_state.md R38): every part of it through an instruction's effect, then through a Step and through
every operation of the host. -/

namespace Sys2Proof.Proofs

open Sys2Proof.Machine Sys2Proof.Claims

/-- The reset state of well-formed parameters meets the invariant (R37, R38). -/
theorem resetWith_inv {p : Params} (h : p.wf = true) : (State.resetWith p).Inv where
  params := h
  mem := rfl
  stackDepth := stackFits_iff.mpr fun _ _ => Nat.zero_le _
  stackEntries := fun _ hr => nomatch hr
  pc := show (0x200 : Word).toNat ≤ 0x10FE by decide

/-- Settles O46: the reset state lists no memory, holds no stack entry and has pc at 0x200. -/
theorem resetMeetsTheInvariant : Obligations.ResetMeetsTheInvariant :=
  ⟨resetWith_inv (by decide), fun _ => resetWith_inv⟩

/-- A fetchable address and at most 4 more stay at most 0x10FE, with no wrap (R38 (f)). -/
theorem toNat_add_le_of_fetchable {a k : Word} (ha : a.toNat ≤ 4094) (hk : k.toNat ≤ 4) : (a + k).toNat ≤ 0x10FE := by
  rw [BitVec.toNat_add]
  omega

/-- The table's next pc after a legal fetch is at most 0x10FE, which `jump-offset` reaches (R38 (f), R113). -/
theorem nextPc_le {s : State} (i : Instr) (hpc : s.pc.toNat ≤ 4094) (hstack : ∀ r ∈ s.stack, r.toNat ≤ 4094) :
    (nextPc i s).toNat ≤ 0x10FE := by
  have hstay : s.pc.toNat ≤ 0x10FE := by omega
  have hnext : (s.pc + 2).toNat ≤ 0x10FE := toNat_add_le_of_fetchable hpc (by decide)
  have hskip : (s.pc + 4).toNat ≤ 0x10FE := toNat_add_le_of_fetchable hpc (by decide)
  have hif (c : Prop) [Decidable c] {a b : Word} (ha : a.toNat ≤ 0x10FE) (hb : b.toNat ≤ 0x10FE) :
      (if c then a else b).toNat ≤ 0x10FE := by split <;> assumption
  cases i
  case jump nnn | call nnn => rw [nextPc, BitVec.toNat_ofNat]; omega
  case jumpOffset nnn => rw [nextPc, BitVec.toNat_ofNat]; omega
  case ret =>
    have hhead : (s.stack.headD 0).toNat ≤ 4094 := by
      cases hs : s.stack with
      | nil => decide
      | cons r rest => exact hstack r (by simp [hs])
    exact toNat_add_le_of_fetchable hhead (by decide)
  case skipEqImm | skipNeImm | skipEqReg | skipNeReg | skipIfPressed => exact hif _ hskip hnext
  case skipIfNotPressed => exact hif _ hnext hskip
  case awaitKey => exact hif _ hnext hstay
  all_goals exact hnext

/-- A store inside memory keeps the canonical form, and no other instruction writes memory (R38 (d), R64). -/
theorem effect_mem_wf {i : Instr} {s : State} (hcause : faultCause i s = none) (hm : Memory.wf s.params s.mem = true) :
    Memory.wf (effect i s).params (effect i s).mem = true := by
  cases i
  case bcdStore x =>
    have hin : ¬ s.idx.toNat + 2 > 4095 := fun h => by simp [faultCause, h] at hcause
    refine memWriteBytes_wf ?_ hm
    simp only [State.base, bcdDigits, List.length_cons, List.length_nil]
    omega
  case registerDump x =>
    have hin : ¬ s.idx.toNat + x.val > 4095 := fun h => by simp [faultCause, h] at hcause
    refine memWriteBytes_wf ?_ hm
    rw [regsUpTo_length, State.base]
    omega
  case awaitKey x => cases h : s.firstKey <;> simpa [effect, h] using hm
  all_goals exact hm

/-- A call pushes on a stack that has room and a return pops; no other instruction writes the stack (R29, R38 (b)). -/
theorem effect_stackFits {i : Instr} {s : State} (hcause : faultCause i s = none) (hs : stackFits s.params s.sp = true) :
    stackFits (effect i s).params (effect i s).sp = true := by
  have hfits := stackFits_iff.mp hs
  rw [effect_params, stackFits_iff]
  cases i
  case call nnn =>
    have hroom : stackHasRoom s.params s.sp = true := by
      by_contra h
      simp [faultCause, h] at hcause
    exact stackHasRoom_iff.mp hroom
  case ret =>
    intro d hd
    have htail : s.stack.tail.length ≤ s.stack.length := by simp
    exact htail.trans (hfits d hd)
  case awaitKey x => cases h : s.firstKey <;> simpa [effect, h, State.sp] using hfits
  all_goals exact hfits

/-- Every entry on the stack is one that was there or the pc of the call that pushed it (R38 (e)). -/
theorem effect_stackEntries {i : Instr} {s : State} (hpc : s.pc.toNat ≤ 4094) (hs : ∀ r ∈ s.stack, r.toNat ≤ 4094) :
    ∀ r ∈ (effect i s).stack, r.toNat ≤ 4094 := by
  cases i
  case call nnn => exact List.forall_mem_cons.mpr ⟨hpc, hs⟩
  case ret => exact fun r hr => hs r (List.mem_of_mem_tail hr)
  case awaitKey x => cases h : s.firstKey <;> simpa [effect, h] using hs
  all_goals exact hs

/-- An instruction that completes after a legal fetch keeps the invariant. -/
theorem effect_inv {i : Instr} {s : State} (hs : s.Inv) (hpc : s.pc.toNat ≤ 4094) (hcause : faultCause i s = none) :
    (effect i s).Inv where
  params := (effect_params i s).symm ▸ hs.params
  mem := effect_mem_wf hcause hs.mem
  stackDepth := effect_stackFits hcause hs.stackDepth
  stackEntries := effect_stackEntries hpc hs.stackEntries
  pc := (effect_pc i s).symm ▸ nextPc_le i hpc hs.stackEntries

/-- The decrement of the timers keeps the invariant, which says nothing of them. -/
theorem tick_inv {s : State} (hs : s.Inv) : s.tick.Inv :=
  ⟨hs.params, hs.mem, hs.stackDepth, hs.stackEntries, hs.pc⟩

/-- Settles O47: a committed Step is the effect of an instruction that the table gives no cause, or an advance from a fetchable
pc, and then the timers. -/
theorem everyStepKeepsTheInvariant : Obligations.EveryStepKeepsTheInvariant := by
  intro s t hs hstep
  obtain ⟨i, ⟨hpc, -⟩, hcause, rfl⟩ | ⟨hpc, -, rfl⟩ := step_eq_next hstep
  · exact ⟨tick_inv (effect_inv hs hpc hcause), effect_params i s⟩
  · have hadvance : s.advance.Inv :=
      { hs with pc := toNat_add_le_of_fetchable hpc (by decide) }
    exact ⟨tick_inv hadvance, rfl⟩

/-- A Step by the host keeps the invariant, whether it commits or not. -/
theorem stepState_inv {s : State} (hs : s.Inv) : (stepState s).Inv := by
  unfold stepState
  split
  · next t h => exact (everyStepKeepsTheInvariant s t hs h).1
  · exact hs
  · exact hs

/-- A Load that is not refused ends inside memory (R221). -/
theorem hostLoad_inv {bytes : List Byte} {s : State} (hs : s.Inv) : (hostLoad bytes s).1.Inv := by
  unfold hostLoad
  split
  · exact hs
  · next h => exact { hs with mem := memWriteBytes_wf (by omega) hs.mem }

/-- A SetKey writes nothing that the invariant speaks of (R225). -/
theorem hostSetKey_inv {index : Nat} {pressed : Bool} {s : State} (hs : s.Inv) : (hostSetKey index pressed s).1.Inv := by
  unfold hostSetKey
  split
  · exact hs
  · exact { hs with }

/-- Every operation of the host keeps the invariant (R38). -/
theorem hostOp_inv (op : HostOp) {s : State} (hs : s.Inv) : (hostOp op s).1.Inv := by
  cases op
  case reset => exact { resetWith_inv hs.params with }
  case load bytes => exact hostLoad_inv hs
  case step => exact stepState_inv hs
  case setKey index pressed => exact hostSetKey_inv hs
  case readAndClearDrawFlag => exact { hs with }
  all_goals exact hs

/-- Settles O48, by induction on the operations. -/
theorem everyHostRunKeepsTheInvariant : Obligations.EveryHostRunKeepsTheInvariant := by
  intro ops
  induction ops with
  | nil => exact fun s hs => hs
  | cons op ops ih => exact fun s hs => ih _ (hostOp_inv op hs)

end Sys2Proof.Proofs

/-! SUPPORT. The decoder and the encoder over all rows (spec 30_encoding.md R85, R94): a word that matches a row decodes to that
row's instruction with the word's fields, a word decodes to nothing else, and the fields of an encoded instruction are its
operands. -/

namespace Sys2Proof.Proofs

open Sys2Proof.Machine Sys2Proof.Claims

/-- The instruction of `i`'s row with its operands cut out of the word `w` (R82, R85); `decodesAs_row` ties it to the decoder. -/
def rowOf (i : Instr) (w : Word) : Instr :=
  match i with
  | .clearScreen => .clearScreen
  | .ret => .ret
  | .jump _ => .jump (nnnField w)
  | .call _ => .call (nnnField w)
  | .skipEqImm _ _ => .skipEqImm (xField w) (nnField w)
  | .skipNeImm _ _ => .skipNeImm (xField w) (nnField w)
  | .skipEqReg _ _ => .skipEqReg (xField w) (yField w)
  | .loadImm _ _ => .loadImm (xField w) (nnField w)
  | .addImm _ _ => .addImm (xField w) (nnField w)
  | .move _ _ => .move (xField w) (yField w)
  | .orReg _ _ => .orReg (xField w) (yField w)
  | .andReg _ _ => .andReg (xField w) (yField w)
  | .xorReg _ _ => .xorReg (xField w) (yField w)
  | .addReg _ _ => .addReg (xField w) (yField w)
  | .subReg _ _ => .subReg (xField w) (yField w)
  | .shiftRight _ _ => .shiftRight (xField w) (yField w)
  | .subReverse _ _ => .subReverse (xField w) (yField w)
  | .shiftLeft _ _ => .shiftLeft (xField w) (yField w)
  | .skipNeReg _ _ => .skipNeReg (xField w) (yField w)
  | .loadIndex _ => .loadIndex (nnnField w)
  | .jumpOffset _ => .jumpOffset (nnnField w)
  | .randomAnd _ _ => .randomAnd (xField w) (nnField w)
  | .drawSprite _ _ _ => .drawSprite (xField w) (yField w) (nField w)
  | .skipIfPressed _ => .skipIfPressed (xField w)
  | .skipIfNotPressed _ => .skipIfNotPressed (xField w)
  | .readDelay _ => .readDelay (xField w)
  | .awaitKey _ => .awaitKey (xField w)
  | .setDelay _ => .setDelay (xField w)
  | .setSound _ => .setSound (xField w)
  | .addToIndex _ => .addToIndex (xField w)
  | .fontAddress _ => .fontAddress (xField w)
  | .bcdStore _ => .bcdStore (xField w)
  | .registerDump _ => .registerDump (xField w)
  | .registerLoad _ => .registerLoad (xField w)

/-! ### A word that matches a row decodes to it -/

/-- The two rows of R85 whose mask is the whole word. -/
theorem decodesAs_of_fixed {mat : Word} {i : Instr} (h : decodeWord mat = .ok i) : DecodesAs mat 0xFFFF (fun _ => i) := by
  intro w hw
  have hfull : w &&& 0xFFFF = w := BitVec.and_allOnes
  rw [← hfull, hw, h]

/-- Families 5 and 9: the instruction where the trailing nibble is 0 (R84 (b), R85). -/
theorem decodesAs_of_selectZero {mat : Word} {row : Word → Instr} (op : BitVec 4) (hop : mat.extractLsb' 12 4 = op)
    (hn : mat.extractLsb' 0 4 = 0x0#4) (h : ∀ w, opField w = op → decodeWord w = selectZero w (row w)) :
    DecodesAs mat 0xF00F row := by
  intro w hw
  have hfirst : opField w = op := (opField_of_mask 0xF00F (by decide) hw).trans hop
  have htrailing : w.extractLsb' 0 4 = 0x0#4 := (trailingNibble_of_mask 0xF00F (by decide) hw).trans hn
  rw [h w hfirst, selectZero, if_pos htrailing]

/-- The rows of family E, whose mask leaves out x alone: the trailing byte selects (R84 (d), R85). -/
theorem decodesAs_of_familyE {mat : Word} {row : Word → Instr} (nn : Byte)
    (hop : mat.extractLsb' 12 4 = 0xE#4) (hnn : mat.extractLsb' 0 8 = nn)
    (h : ∀ w, nnField w = nn → decodeFamilyE w = .ok (row w)) : DecodesAs mat 0xF0FF row := by
  intro w hw
  have hfirst : opField w = 0xE#4 := (opField_of_mask 0xF0FF (by decide) hw).trans hop
  have htrailing : nnField w = nn := (nnField_of_mask 0xF0FF (by decide) hw).trans hnn
  have hfamily : decodeWord w = decodeFamilyE w := by simp only [decodeWord, hfirst]
  exact hfamily.trans (h w htrailing)

theorem decodeWord_family5 {w : Word} (h : opField w = 0x5#4) :
    decodeWord w = selectZero w (.skipEqReg (xField w) (yField w)) := by
  simp only [decodeWord, h]

theorem decodeWord_family9 {w : Word} (h : opField w = 0x9#4) :
    decodeWord w = selectZero w (.skipNeReg (xField w) (yField w)) := by
  simp only [decodeWord, h]

/-- The decoder, row by row: a word that matches a row of R86 decodes to the row's instruction with the word's own fields. -/
theorem decodesAs_row (i : Instr) : DecodesAs i.matchBits i.format.mask (rowOf i) := by
  cases i
  all_goals dsimp only [Instr.matchBits, Instr.format, Format.mask]
  case clearScreen | ret => exact decodesAs_of_fixed rfl
  case jump => exact decodesAs_of_opField 0x1#4 (by decide) fun w h => by simp only [decodeWord, h, rowOf]
  case call => exact decodesAs_of_opField 0x2#4 (by decide) fun w h => by simp only [decodeWord, h, rowOf]
  case skipEqImm => exact decodesAs_of_opField 0x3#4 (by decide) fun _ => decodeWord_skipEqImm
  case skipNeImm => exact decodesAs_of_opField 0x4#4 (by decide) fun _ => decodeWord_skipNeImm
  case skipEqReg => exact decodesAs_of_selectZero 0x5#4 (by decide) (by decide) fun _ => decodeWord_family5
  case loadImm => exact decodesAs_of_opField 0x6#4 (by decide) fun _ => decodeWord_loadImm
  case addImm => exact decodesAs_of_opField 0x7#4 (by decide) fun _ => decodeWord_addImm
  case move => exact decodesAs_of_family8 0x0#4 (by decide) (by decide) fun _ => decodeFamily8_move
  case orReg => exact decodesAs_of_family8 0x1#4 (by decide) (by decide) fun _ => decodeFamily8_orReg
  case andReg => exact decodesAs_of_family8 0x2#4 (by decide) (by decide) fun _ => decodeFamily8_andReg
  case xorReg => exact decodesAs_of_family8 0x3#4 (by decide) (by decide) fun _ => decodeFamily8_xorReg
  case addReg => exact decodesAs_of_family8 0x4#4 (by decide) (by decide) fun w h => by simp only [decodeFamily8, h, rowOf]
  case subReg => exact decodesAs_of_family8 0x5#4 (by decide) (by decide) fun w h => by simp only [decodeFamily8, h, rowOf]
  case shiftRight => exact decodesAs_of_family8 0x6#4 (by decide) (by decide) fun w h => by simp only [decodeFamily8, h, rowOf]
  case subReverse => exact decodesAs_of_family8 0x7#4 (by decide) (by decide) fun w h => by simp only [decodeFamily8, h, rowOf]
  case shiftLeft => exact decodesAs_of_family8 0xE#4 (by decide) (by decide) fun w h => by simp only [decodeFamily8, h, rowOf]
  case skipNeReg => exact decodesAs_of_selectZero 0x9#4 (by decide) (by decide) fun _ => decodeWord_family9
  case loadIndex => exact decodesAs_of_opField 0xA#4 (by decide) fun _ => decodeWord_loadIndex
  case jumpOffset => exact decodesAs_of_opField 0xB#4 (by decide) fun w h => by simp only [decodeWord, h, rowOf]
  case randomAnd => exact decodesAs_of_opField 0xC#4 (by decide) fun w h => by simp only [decodeWord, h, rowOf]
  case drawSprite => exact decodesAs_of_opField 0xD#4 (by decide) fun w h => by simp only [decodeWord, h, rowOf]
  case skipIfPressed => exact decodesAs_of_familyE 0x9E#8 (by decide) (by decide) fun w h => by simp only [decodeFamilyE, h, rowOf]
  case skipIfNotPressed =>
    exact decodesAs_of_familyE 0xA1#8 (by decide) (by decide) fun w h => by simp only [decodeFamilyE, h, rowOf]
  case readDelay => exact decodesAs_of_familyF 0x07#8 (by decide) (by decide) fun _ => decodeFamilyF_readDelay
  case awaitKey => exact decodesAs_of_familyF 0x0A#8 (by decide) (by decide) fun w h => by simp only [decodeFamilyF, h, rowOf]
  case setDelay => exact decodesAs_of_familyF 0x15#8 (by decide) (by decide) fun w h => by simp only [decodeFamilyF, h, rowOf]
  case setSound => exact decodesAs_of_familyF 0x18#8 (by decide) (by decide) fun w h => by simp only [decodeFamilyF, h, rowOf]
  case addToIndex => exact decodesAs_of_familyF 0x1E#8 (by decide) (by decide) fun w h => by simp only [decodeFamilyF, h, rowOf]
  case fontAddress => exact decodesAs_of_familyF 0x29#8 (by decide) (by decide) fun w h => by simp only [decodeFamilyF, h, rowOf]
  case bcdStore => exact decodesAs_of_familyF 0x33#8 (by decide) (by decide) fun _ => decodeFamilyF_bcdStore
  case registerDump => exact decodesAs_of_familyF 0x55#8 (by decide) (by decide) fun _ => decodeFamilyF_registerDump
  case registerLoad => exact decodesAs_of_familyF 0x65#8 (by decide) (by decide) fun _ => decodeFamilyF_registerLoad

/-! ### A word decodes to no other instruction than its row's -/

/-- The word under the mask of a row that the first nibble selects. -/
theorem and_F000 (w : Word) : w &&& 0xF000#16 = opField w ++ 0#12 := by
  refine BitVec.eq_of_getLsbD_eq fun i hi => ?_
  rw [BitVec.getLsbD_append, opField]
  interval_cases i <;> simp

/-- The word under the mask of a row that the first and the trailing nibble select. -/
theorem and_F00F (w : Word) : w &&& 0xF00F#16 = opField w ++ 0#8 ++ w.extractLsb' 0 4 := by
  refine BitVec.eq_of_getLsbD_eq fun i hi => ?_
  rw [BitVec.getLsbD_append, BitVec.getLsbD_append, opField]
  interval_cases i <;> simp

/-- The word under the mask of a row that the first nibble and the trailing byte select. -/
theorem and_F0FF (w : Word) : w &&& 0xF0FF#16 = opField w ++ 0#4 ++ nnField w := by
  refine BitVec.eq_of_getLsbD_eq fun i hi => ?_
  rw [BitVec.getLsbD_append, BitVec.getLsbD_append, opField, nnField]
  interval_cases i <;> simp

/-- The word `w` is one of `i`'s row, and `i` has the fields of `w` as its operands. -/
def FromRow (w : Word) (i : Instr) : Prop := w &&& i.format.mask = i.matchBits ∧ rowOf i w = i

theorem fromRow_of_opField {w : Word} {i : Instr} {op : BitVec 4} (hop : opField w = op) (hmask : i.format.mask = 0xF000#16)
    (hmatch : op ++ 0#12 = i.matchBits) (hrow : rowOf i w = i) : FromRow w i :=
  ⟨by rw [hmask, and_F000, hop, hmatch], hrow⟩

theorem fromRow_of_trailingNibble {w : Word} {i : Instr} {op n : BitVec 4} (hop : opField w = op) (hn : w.extractLsb' 0 4 = n)
    (hmask : i.format.mask = 0xF00F#16) (hmatch : op ++ 0#8 ++ n = i.matchBits) (hrow : rowOf i w = i) : FromRow w i :=
  ⟨by rw [hmask, and_F00F, hop, hn, hmatch], hrow⟩

theorem fromRow_of_trailingByte {w : Word} {i : Instr} {op : BitVec 4} {nn : Byte} (hop : opField w = op) (hnn : nnField w = nn)
    (hmask : i.format.mask = 0xF0FF#16) (hmatch : op ++ 0#4 ++ nn = i.matchBits) (hrow : rowOf i w = i) : FromRow w i :=
  ⟨by rw [hmask, and_F0FF, hop, hnn, hmatch], hrow⟩

theorem fromRow_of_decodeFamily0 {w : Word} {i : Instr} (h : decodeFamily0 w = .ok i) : FromRow w i := by
  have hfull : w &&& 0xFFFF = w := BitVec.and_allOnes
  unfold decodeFamily0 at h
  split at h
  · next hw =>
    cases h
    exact ⟨hfull.trans hw, rfl⟩
  · split at h
    · next hw =>
      cases h
      exact ⟨hfull.trans hw, rfl⟩
    · cases h

/-- What families 5 and 9 answer (R84 (b)). -/
theorem selectZero_eq_ok {w : Word} {i j : Instr} : selectZero w j = .ok i ↔ w.extractLsb' 0 4 = 0x0#4 ∧ i = j := by
  unfold selectZero
  split
  · next h => simp [h, eq_comm]
  · next h => simp [h]

theorem fromRow_of_decodeFamily8 {w : Word} {i : Instr} (hop : opField w = 0x8#4) (h : decodeFamily8 w = .ok i) :
    FromRow w i := by
  unfold decodeFamily8 at h
  split at h
  case h_10 => cases h
  all_goals
    next hn =>
      cases h
      exact fromRow_of_trailingNibble hop hn rfl rfl rfl

theorem fromRow_of_decodeFamilyE {w : Word} {i : Instr} (hop : opField w = 0xE#4) (h : decodeFamilyE w = .ok i) :
    FromRow w i := by
  unfold decodeFamilyE at h
  split at h
  case h_3 => cases h
  all_goals
    next hnn =>
      cases h
      exact fromRow_of_trailingByte hop hnn rfl rfl rfl

theorem fromRow_of_decodeFamilyF {w : Word} {i : Instr} (hop : opField w = 0xF#4) (h : decodeFamilyF w = .ok i) :
    FromRow w i := by
  unfold decodeFamilyF at h
  split at h
  case h_10 => cases h
  all_goals
    next hnn =>
      cases h
      exact fromRow_of_trailingByte hop hnn rfl rfl rfl

/-- The decoder inverted: a word that decodes to an instruction is one of its row, and gave it its operands. -/
theorem fromRow_of_decodeWord {w : Word} {i : Instr} (h : decodeWord w = .ok i) : FromRow w i := by
  unfold decodeWord at h
  split at h
  case h_1 => exact fromRow_of_decodeFamily0 h
  case h_6 hop | h_10 hop =>
    obtain ⟨hn, rfl⟩ := selectZero_eq_ok.mp h
    exact fromRow_of_trailingNibble hop hn rfl rfl rfl
  case h_9 hop => exact fromRow_of_decodeFamily8 hop h
  case h_15 hop => exact fromRow_of_decodeFamilyE hop h
  case h_16 =>
    have hop : opField w = 0xF#4 := by
      generalize opField w = op at *
      decide +revert
    exact fromRow_of_decodeFamilyF hop h
  all_goals
    next hop =>
      cases h
      exact fromRow_of_opField hop rfl rfl rfl

/-! ### The fields of an encoded instruction are its operands -/

/-- A register number placed in a word, as a bit vector. -/
theorem ofNat_val (x : Fin 16) : BitVec.ofNat 16 x.val = (BitVec.ofFin x : BitVec 4).setWidth 16 :=
  BitVec.ofNat_toNat 16 (BitVec.ofFin x : BitVec 4)

theorem xField_or_place {m : Word} (hm : m.extractLsb' 8 4 = 0#4) (x y n : Fin 16) (b : Byte) :
    xField (m ||| (Fields.mk x.val y.val n.val b.toNat 0).place) = x := by
  suffices h : (Fields.mk x.val y.val n.val b.toNat 0).place.extractLsb' 8 4 = BitVec.ofFin x by
    rw [xField, BitVec.extractLsb'_or, hm, h, BitVec.zero_or]
  simp only [Fields.place, ofNat_val, BitVec.ofNat_toNat]
  generalize (BitVec.ofFin x : BitVec 4) = x', (BitVec.ofFin y : BitVec 4) = y', (BitVec.ofFin n : BitVec 4) = n'
  ext i hi
  interval_cases i <;> simp

theorem yField_or_place {m : Word} (hm : m.extractLsb' 4 4 = 0#4) (x y n : Fin 16) :
    yField (m ||| (Fields.mk x.val y.val n.val 0 0).place) = y := by
  suffices h : (Fields.mk x.val y.val n.val 0 0).place.extractLsb' 4 4 = BitVec.ofFin y by
    rw [yField, BitVec.extractLsb'_or, hm, h, BitVec.zero_or]
  simp only [Fields.place, ofNat_val]
  generalize (BitVec.ofFin x : BitVec 4) = x', (BitVec.ofFin y : BitVec 4) = y', (BitVec.ofFin n : BitVec 4) = n'
  ext i hi
  interval_cases i <;> simp

theorem nField_or_place {m : Word} (hm : m.extractLsb' 0 4 = 0#4) (x y n : Fin 16) :
    nField (m ||| (Fields.mk x.val y.val n.val 0 0).place) = n := by
  suffices h : (Fields.mk x.val y.val n.val 0 0).place.extractLsb' 0 4 = BitVec.ofFin n by
    rw [nField, BitVec.extractLsb'_or, hm, h, BitVec.zero_or]
  simp only [Fields.place, ofNat_val]
  generalize (BitVec.ofFin x : BitVec 4) = x', (BitVec.ofFin y : BitVec 4) = y', (BitVec.ofFin n : BitVec 4) = n'
  ext i hi
  interval_cases i <;> simp

theorem nnField_or_place {m : Word} (hm : m.extractLsb' 0 8 = 0#8) (x : Fin 16) (b : Byte) :
    nnField (m ||| (Fields.mk x.val 0 0 b.toNat 0).place) = b := by
  suffices h : (Fields.mk x.val 0 0 b.toNat 0).place.extractLsb' 0 8 = b by
    rw [nnField, BitVec.extractLsb'_or, hm, h, BitVec.zero_or]
  simp only [Fields.place, ofNat_val, BitVec.ofNat_toNat]
  ext i hi
  interval_cases i <;> simp

theorem nnnField_or_place {m : Word} (hm : m.extractLsb' 0 12 = 0#12) (a : BitVec 12) :
    nnnField (m ||| (Fields.mk 0 0 0 0 a.toNat).place) = a := by
  suffices h : (Fields.mk 0 0 0 0 a.toNat).place.extractLsb' 0 12 = a by
    rw [nnnField, BitVec.extractLsb'_or, hm, h, BitVec.zero_or]
  simp only [Fields.place, BitVec.ofNat_toNat]
  ext i hi
  interval_cases i <;> simp

/-- No operand is lost in the word (R94), format by format. -/
theorem rowOf_encode (i : Instr) : rowOf i (encode i) = i := by
  cases i
  all_goals dsimp only [rowOf, encode, Instr.matchBits, Instr.fields]
  case jump a | call a | loadIndex a | jumpOffset a => exact congrArg _ (nnnField_or_place (by decide) a)
  case skipEqImm x b | skipNeImm x b | loadImm x b | addImm x b | randomAnd x b =>
    exact congrArg₂ _ (xField_or_place (by decide) x 0 0 b) (nnField_or_place (by decide) x b)
  case drawSprite x y n =>
    exact congr (congrArg₂ _ (xField_or_place (by decide) x y n 0) (yField_or_place (by decide) x y n))
      (nField_or_place (by decide) x y n)
  case skipEqReg x y | skipNeReg x y | move x y | orReg x y | andReg x y | xorReg x y | addReg x y | subReg x y
      | shiftRight x y | subReverse x y | shiftLeft x y =>
    exact congrArg₂ _ (xField_or_place (by decide) x y 0 0) (yField_or_place (by decide) x y 0)
  all_goals
    next x => exact congrArg _ (xField_or_place (by decide) x 0 0 0)

/-- The bits that a format leaves to its operands (R81, R85). -/
def operandMask : Format → Word
  | .fixed => 0
  | .nnn | .xnn | .xyn => 0x0FFF#16
  | .xy => 0x0FF0#16
  | .x => 0x0F00#16

theorem not_mask (f : Format) : ~~~f.mask = operandMask f := by cases f <;> decide

/-- The operands of an instruction that was cut out of a word, put back at their positions, are the bits that its row's mask
leaves out (R94). -/
theorem place_rowOf (i : Instr) (w : Word) : (rowOf i w).fields.place = w &&& operandMask i.format := by
  cases i
  case clearScreen | ret =>
    have hnone : (Fields.mk 0 0 0 0 0).place = 0#16 := by decide
    exact hnone.trans BitVec.and_zero.symm
  case jump | call | loadIndex | jumpOffset => exact place_nnn w
  case skipEqImm | skipNeImm | loadImm | addImm | randomAnd => exact place_xnn w
  case drawSprite => exact place_xyn w
  case skipEqReg | skipNeReg | move | orReg | andReg | xorReg | addReg | subReg | shiftRight | subReverse | shiftLeft =>
    exact place_xy w
  all_goals exact place_x w

/-- An instruction that came from a word encodes to that word: the row's fixed bits and the operands' are all of it (R94). -/
theorem encode_of_fromRow {w : Word} {i : Instr} (h : FromRow w i) : encode i = w := by
  obtain ⟨hmatch, hrow⟩ := h
  have hplace := place_rowOf i w
  rw [hrow] at hplace
  rw [encode, ← hmatch, hplace, ← not_mask]
  ext k hk
  simp [← Bool.and_or_distrib_left]

/-! ### The encoding's statements -/

/-- Every instruction is well formed, and its word matches its row (R85, R94). -/
theorem rowEncoding (i : Instr) : Laws.RowEncoding.Statement i := by
  cases i
  case clearScreen => exact Laws.RowEncoding.clearScreen
  case ret => exact Laws.RowEncoding.ret
  case jump => exact Laws.RowEncoding.jump _
  case call => exact Laws.RowEncoding.call _
  case skipEqImm => exact Laws.RowEncoding.skipEqImm _ _
  case skipNeImm => exact Laws.RowEncoding.skipNeImm _ _
  case skipEqReg => exact Laws.RowEncoding.skipEqReg _ _
  case loadImm => exact Laws.RowEncoding.loadImm _ _
  case addImm => exact Laws.RowEncoding.addImm _ _
  case move => exact Laws.RowEncoding.move _ _
  case orReg => exact Laws.RowEncoding.orReg _ _
  case andReg => exact Laws.RowEncoding.andReg _ _
  case xorReg => exact Laws.RowEncoding.xorReg _ _
  case addReg => exact Laws.RowEncoding.addReg _ _
  case subReg => exact Laws.RowEncoding.subReg _ _
  case shiftRight => exact Laws.RowEncoding.shiftRight _ _
  case subReverse => exact Laws.RowEncoding.subReverse _ _
  case shiftLeft => exact Laws.RowEncoding.shiftLeft _ _
  case skipNeReg => exact Laws.RowEncoding.skipNeReg _ _
  case loadIndex => exact Laws.RowEncoding.loadIndex _
  case jumpOffset => exact Laws.RowEncoding.jumpOffset _
  case randomAnd => exact Laws.RowEncoding.randomAnd _ _
  case drawSprite => exact Laws.RowEncoding.drawSprite _ _ _
  case skipIfPressed => exact Laws.RowEncoding.skipIfPressed _
  case skipIfNotPressed => exact Laws.RowEncoding.skipIfNotPressed _
  case readDelay => exact Laws.RowEncoding.readDelay _
  case awaitKey => exact Laws.RowEncoding.awaitKey _
  case setDelay => exact Laws.RowEncoding.setDelay _
  case setSound => exact Laws.RowEncoding.setSound _
  case addToIndex => exact Laws.RowEncoding.addToIndex _
  case fontAddress => exact Laws.RowEncoding.fontAddress _
  case bcdStore => exact Laws.RowEncoding.bcdStore _
  case registerDump => exact Laws.RowEncoding.registerDump _
  case registerLoad => exact Laws.RowEncoding.registerLoad _

/-- An instruction decodes from its own word (R94). -/
theorem decodeWord_encode (i : Instr) : decodeWord (encode i) = .ok i := by
  obtain ⟨-, hmatch⟩ := rowEncoding i
  rw [decodesAs_row i (encode i) hmatch, rowOf_encode]

/-- Settles O51: an encoded instruction matches its own row and loses no operand, and a word that decodes has the fixed bits of its
row and the operands' bits, which are all of it. -/
theorem decodeAndEncodeAgree : Obligations.DecodeAndEncodeAgree := by
  refine ⟨fun i => ?wordRoundTrip, fun i rest => ?bytesRoundTrip, fun w i h => ?encodeDecoded⟩
  case wordRoundTrip =>
    obtain ⟨hwf, -⟩ := rowEncoding i
    exact ⟨hwf, decodeWord_encode i⟩
  case bytesRoundTrip =>
    simp only [encodeBytes, bytesOfWord, List.cons_append, List.nil_append, decodeBytes, wordOfBytes_bytesOfWord,
      decodeWord_encode]
  case encodeDecoded => exact encode_of_fromRow (fromRow_of_decodeWord h)

/-- The table's rows are the match value and mask of the instructions, each with some operands. -/
theorem mem_opcodeRows (i : Instr) : (i.matchBits, i.format.mask) ∈ opcodeRows := by
  cases i
  all_goals
    dsimp only [Instr.matchBits, Instr.format, Format.mask]
    decide

/-- One instruction of each row, in the table's order. -/
def rowSamples : List Instr :=
  ([.clearScreen, .ret, .jump 0, .call 0, .skipEqImm 0 0, .skipNeImm 0 0, .skipEqReg 0 0, .loadImm 0 0, .addImm 0 0] : List Instr) ++
  ([.move 0 0, .orReg 0 0, .andReg 0 0, .xorReg 0 0, .addReg 0 0, .subReg 0 0, .shiftRight 0 0, .subReverse 0 0,
   .shiftLeft 0 0, .skipNeReg 0 0] : List Instr) ++
  ([.loadIndex 0, .jumpOffset 0, .randomAnd 0 0, .drawSprite 0 0 0, .skipIfPressed 0, .skipIfNotPressed 0] : List Instr) ++
  ([.readDelay 0, .awaitKey 0, .setDelay 0, .setSound 0, .addToIndex 0, .fontAddress 0, .bcdStore 0, .registerDump 0,
   .registerLoad 0] : List Instr)

theorem rowSamples_rows : rowSamples.map (fun i => (i.matchBits, i.format.mask)) = opcodeRows := by decide

/-- A word decodes to an instruction exactly when it matches a row (R85, R87). -/
theorem decodes_iff_matches (w : Word) : (∃ i, decodeWord w = .ok i) ↔ ∃ row ∈ opcodeRows, w &&& row.2 = row.1 := by
  constructor
  · rintro ⟨i, hi⟩
    obtain ⟨hmatch, -⟩ := fromRow_of_decodeWord hi
    exact ⟨_, mem_opcodeRows i, hmatch⟩
  · rintro ⟨row, hrow, hmatch⟩
    rw [← rowSamples_rows] at hrow
    obtain ⟨i, -, rfl⟩ := List.mem_map.mp hrow
    exact ⟨_, decodesAs_row i w hmatch⟩

/-- A word that is unknown is one that decodes to nothing (R87). -/
theorem decodeWord_unknown_iff (w : Word) : decodeWord w = .error (.unknownOpcode w) ↔ ¬ ∃ i, decodeWord w = .ok i := by
  cases h : decodeWord w with
  | ok i => simp
  | error e => simp [decodeWord_error h]

/-- Rows that disagree in a bit that both masks cover have no word in common. -/
theorem rows_disjoint {r q : Word × Word} (h : r.1 &&& q.2 ≠ q.1 &&& r.2) (w : Word) :
    ¬ (w &&& r.2 = r.1 ∧ w &&& q.2 = q.1) := by
  rintro ⟨hr, hq⟩
  refine h ?_
  rw [← hr, ← hq, BitVec.and_assoc, BitVec.and_assoc, BitVec.and_comm r.2]

/-- Settles O52: the decoder inverted gives the row matched, a row matched decodes, and any two rows disagree in a bit that both
masks cover. -/
theorem aWordIsUnknownExactlyWhenNoRowMatches : Obligations.AWordIsUnknownExactlyWhenNoRowMatches := by
  refine ⟨fun w => ?unknown, decodes_iff_matches, ?disjoint⟩
  case unknown =>
    rw [decodeWord_unknown_iff, decodes_iff_matches]
    simp only [not_exists, not_and, ne_eq]
  case disjoint =>
    have hdisagree : opcodeRows.Pairwise fun r q => r.1 &&& q.2 ≠ q.1 &&& r.2 := by decide
    exact hdisagree.imp rows_disjoint

/-- Settles O53: each of the words, through the decoder. -/
theorem writtenWordsDecodeAsTheSpecSays : Obligations.WrittenWordsDecodeAsTheSpecSays := by
  unfold Obligations.WrittenWordsDecodeAsTheSpecSays
  decide

end Sys2Proof.Proofs

/-! SUPPORT. What a fetch above 4094, a decrement of the timers and a run of faulting Steps do (spec 40_step_cycle.md). -/

namespace Sys2Proof.Proofs

open Sys2Proof.Machine Sys2Proof.Claims

/-- A Step with pc above 4094 faults (R111, D2). -/
theorem step_of_pc_gt {s : State} (h : 4094 < s.pc.toNat) : step s = .fault .fetchOutOfBounds := by
  refine step_of_not_fetchLegal ?_
  rw [Bool.eq_false_iff, ne_eq, fetchLegal_iff]
  omega

/-- The host's Step of a state whose Step faults answers the cause and the state as it was (R117, D1). -/
theorem hostOp_step_of_fault {s : State} {f : Fault} (h : step s = .fault f) :
    hostOp .step s = (s, .status (.fault f)) := by
  simp only [hostOp, stepState, stepStatus, h]

/-- A Step that completes its instruction decrements the timers and touches nothing else after it (R114). -/
theorem tick_onlyChanges_dt_st (s : State) : OnlyChanges [.dt, .st] s s.tick := by
  simp [OnlyChanges]

/-- A Step of an instruction that the table gives no cause (R110). -/
theorem step_of_effect {s : State} {i : Instr} (hf : Fetches s i) (h : faultCause i s = none) :
    step s = .next (effect i s).tick :=
  step_of_fetches_of_exec hf (exec_of_faultCause h)

/-- Settles O38: the fetch is refused before anything is read. -/
theorem aFetchAbove4094Faults : Obligations.AFetchAbove4094Faults :=
  fun _ h => ⟨step_of_pc_gt h, hostOp_step_of_fault (step_of_pc_gt h)⟩

/-- Settles O45, by induction on the number of retries: each starts from the state that the first one left as it was. -/
theorem aFaultingStepChangesNothing : Obligations.AFaultingStepChangesNothing := by
  refine fun s f h => ⟨hostOp_step_of_fault h, fun n => ?_⟩
  induction n with
  | zero => rfl
  | succ n ih => simp only [List.replicate_succ, hostRun, hostOp_step_of_fault h, ih]

end Sys2Proof.Proofs

/-! SUPPORT. The shape of the proofs about control transfer (spec 41_flow.md): the entries of the stack after a push and a pop. -/

namespace Sys2Proof.Proofs

open Sys2Proof.Machine Sys2Proof.Claims

/-- A push puts its entry at index SP (R29). -/
theorem stk_sp_of_push {s t : State} {a : Word} (h : t.stack = a :: s.stack) : t.stk s.sp = some a := by
  rw [State.stk, h, List.reverse_cons, State.sp, ← List.length_reverse, List.getElem?_concat_length]

/-- A push leaves the older entries at their indices (R29). -/
theorem stk_of_push {s t : State} {a : Word} (h : t.stack = a :: s.stack) {k : Nat} (hk : k < s.sp) : t.stk k = s.stk k := by
  have hlen : k < s.stack.reverse.length := by rwa [List.length_reverse]
  rw [State.stk, h, List.reverse_cons, List.getElem?_append_left hlen, State.stk]

/-- The most recent entry, at index SP - 1, is the first of the list (R26). -/
theorem stk_sp_sub_one (s : State) : s.stk (s.sp - 1) = s.stack.head? := by
  rw [State.stk, State.sp, ← List.length_reverse, ← List.getLast?_eq_getElem?, List.getLast?_reverse]

/-- Settles O2: the row is decoded by its first nibble, the handler is one write of pc, and a jump to its own address writes the
pc that is there. -/
theorem jumpGoesToItsTarget : Obligations.JumpGoesToItsTarget := by
  refine ⟨decodesAs_row (.jump 0), fun nnn s => ?handler, fun nnn s hf hself => ?self⟩
  case handler =>
    have hpc : (effect (.jump nnn) s).pc.toNat = nnn.toNat := zextAddr_toNat nnn
    exact ⟨_, exec_of_faultCause rfl, hpc, effect_onlyChanges (.jump nnn) s, fun h => step_of_pc_gt (by omega)⟩
  case self =>
    have hsame : effect (.jump nnn) s = s := by
      have htarget : zextAddr nnn = s.pc := BitVec.eq_of_toNat_eq ((zextAddr_toNat nnn).trans hself.symm)
      rw [effect, htarget]
      rfl
    refine ⟨_, step_of_effect hf rfl, ?_⟩
    rw [hsame]
    exact ⟨rfl, countDown_toNat s.dt, countDown_toNat s.st, tick_onlyChanges_dt_st s⟩

/-- Settles O3: the row is decoded by its first nibble, and the table's cause is that the stack has no room. -/
theorem callPushesItsOwnAddress : Obligations.CallPushesItsOwnAddress := by
  refine ⟨decodesAs_row (.call 0), fun nnn s => ⟨fun hroom => ?room, fun d hd hfull => ?full⟩⟩
  case room =>
    have hcause : faultCause (.call nnn) s = none := if_pos (stackHasRoom_iff.mpr hroom)
    have hstack : (effect (.call nnn) s).stack = s.pc :: s.stack := rfl
    exact ⟨_, exec_of_faultCause hcause, hstack, rfl, stk_sp_of_push hstack, fun _ => stk_of_push hstack,
      zextAddr_toNat nnn, onlyChanges_mono (by simp [mayChange]) (effect_onlyChanges _ s)⟩
  case full =>
    have hnoRoom : ¬ stackHasRoom s.params s.sp = true := fun h => by
      have := stackHasRoom_iff.mp h d hd
      omega
    exact exec_eq_fault_iff.mpr (if_neg hnoRoom)

/-- The handler of `return` on a stack with an entry pops it and goes two past it (R133). -/
theorem exec_ret_of_cons {s : State} {r : Word} {rest : List Word} (h : s.stack = r :: rest) :
    exec .ret s = .next ((s.setStack rest).setPc (r + 2)) :=
  execRet_eq_next.mpr ⟨r, rest, h, rfl⟩

/-- The handler of `return` on an empty stack faults (R242). -/
theorem exec_ret_of_empty {s : State} (h : s.sp = 0) : exec .ret s = .fault .stackUnderflow :=
  exec_eq_fault_iff.mpr (if_pos h)

theorem setStack_setPc_onlyChanges (s : State) (l : List Word) (a : Word) :
    OnlyChanges [.stack, .pc] s ((s.setStack l).setPc a) := by
  simp [OnlyChanges]

/-- Settles O4: the row is one word, the entry at index SP - 1 is the one the handler pops, and the table's cause is an empty
stack. -/
theorem returnResumesAfterTheCall : Obligations.ReturnResumesAfterTheCall := by
  refine ⟨decodesAs_row .ret, fun s r _ hr => ?pops, fun _ => exec_ret_of_empty, fun s hsp hf => ?hostStep⟩
  case pops =>
    rw [stk_sp_sub_one] at hr
    obtain ⟨rest, hstack⟩ := List.head?_eq_some_iff.mp hr
    have hsp : s.sp - 1 = rest.length := by simp [State.sp, hstack]
    refine ⟨_, exec_ret_of_cons hstack, BitVec.toNat_add r 2, hsp.symm, fun k hk => ?_, setStack_setPc_onlyChanges s rest _⟩
    exact (stk_of_push (s := (s.setStack rest).setPc (r + 2)) hstack (hk.trans_eq hsp)).symm
  case hostStep =>
    refine hostOp_step_of_fault ?_
    rw [step_of_fetches hf, exec_ret_of_empty hsp, finishStep]

/-- Settles O5: the row is decoded by its first nibble, and the sum is below 65536. -/
theorem jumpOffsetAddsV0 : Obligations.JumpOffsetAddsV0 := by
  refine ⟨decodesAs_row (.jumpOffset 0), fun nnn s => ?handler⟩
  case handler =>
    have hpc : (effect (.jumpOffset nnn) s).pc.toNat = (s.reg 0).toNat + nnn.toNat := zextReg_add_zextAddr_toNat _ nnn
    exact ⟨_, exec_of_faultCause rfl, hpc, effect_onlyChanges (.jumpOffset nnn) s, fun h => step_of_pc_gt (by omega)⟩

/-- Settles O6: the call's own address is the entry that the return pops. -/
theorem callAndReturnResumeAfterTheCall : Obligations.CallAndReturnResumeAfterTheCall := by
  intro nnn s u hcall v hv
  obtain ⟨-, rfl⟩ := exec_eq_next_iff.mp hcall
  have hstack : v.stack = s.pc :: s.stack := hv
  exact ⟨_, exec_ret_of_cons hstack, rfl, rfl, setStack_setPc_onlyChanges v _ _⟩

end Sys2Proof.Proofs

/-! SUPPORT. The skips on a pair of registers and on a key (spec 42_skip.md, 46_keys_timers.md). -/

namespace Sys2Proof.Proofs

open Sys2Proof.Machine Sys2Proof.Claims

/-- A trailing nibble that is not 0 leaves families 5 and 9 without a row (R84 (b), D12). -/
theorem selectZero_of_nField_ne {w : Word} (i : Instr) (h : nField w ≠ 0) : selectZero w i = .error (.unknownOpcode w) :=
  if_neg fun h0 => h (congrArg BitVec.toFin h0)

/-- Settles O8: both rows are decoded by their first and trailing nibbles, and each handler is one skip on its comparison. -/
theorem skipsOnARegister : Obligations.SkipsOnARegister := by
  refine ⟨decodesAs_row (.skipEqReg 0 0), decodesAs_row (.skipNeReg 0 0), fun w hop hn => ?unknown, fun x y s => ⟨?eq, ?ne⟩⟩
  case unknown =>
    obtain hop | hop := hop
    · rw [decodeWord_family5 hop, selectZero_of_nField_ne _ hn]
    · rw [decodeWord_family9 hop, selectZero_of_nField_ne _ hn]
  case eq => exact skips_of_exec (exec_of_faultCause rfl) beq_iff_eq.mpr beq_eq_false_iff_ne.mpr
  case ne => exact skips_of_exec (exec_of_faultCause rfl) bne_iff_ne.mpr bne_eq_false_iff_eq.mpr

/-- Settles O29: both rows are decoded by their trailing byte, each handler is one skip on the key's level, and the table's cause is
an index above 15. -/
theorem keySkipsTestTheKeyInVx : Obligations.KeySkipsTestTheKeyInVx := by
  refine ⟨decodesAs_row (.skipIfPressed 0), decodesAs_row (.skipIfNotPressed 0), fun x s => ⟨fun hle => ?key, fun hgt => ?noKey⟩⟩
  case key =>
    have hin : ¬ (s.reg x).toNat > 15 := Nat.not_lt.mpr hle
    exact ⟨⟨_, exec_of_faultCause (if_neg hin), effect_onlyChanges (.skipIfPressed x) s, effect_pc (.skipIfPressed x) s⟩,
      ⟨_, exec_of_faultCause (if_neg hin), effect_onlyChanges (.skipIfNotPressed x) s, effect_pc (.skipIfNotPressed x) s⟩⟩
  case noKey => exact ⟨exec_eq_fault_iff.mpr (if_pos hgt), exec_eq_fault_iff.mpr (if_pos hgt)⟩

end Sys2Proof.Proofs

/-! SUPPORT. The flag writers (spec 43_alu.md section 4): the flag goes to VF first, and the result is computed from the registers
after it. -/

namespace Sys2Proof.Proofs

open Sys2Proof.Machine Sys2Proof.Claims

/-- What a register holds once the flag is written, as a number (R150). -/
theorem reg_setFlag_toNat {s : State} {f : Byte} {n : Nat} (hf : f.toNat = n) (r : RegIdx) :
    ((s.setFlag f).reg r).toNat = afterFlag s n r := by
  by_cases hr : r = 15
  · simp [afterFlag, hr, hf]
  · simp [afterFlag, hr, Ne.symm hr]

/-- A handler that writes the flag and then the result completes with the two of them in VF and Vx, where the result as a number
is that of the registers after the flag (R150). -/
theorem flagThenResult_of_effect {i : Instr} {s : State} {x : RegIdx} {f : Byte} {g : State → Byte} {n result : Nat}
    (hcause : faultCause i s = none) (heffect : effect i s = (s.flagThen f x g).advance) (hparts : mayChange i = [.pc, .regs])
    (hf : f.toNat = n) (hresult : (g (s.setFlag f)).toNat = result) :
    ∃ t, exec i s = .next t ∧ t.pc = s.pc + 2 ∧ OnlyChanges [.regs, .pc] s t ∧ FlagThenResult s t x n result := by
  refine ⟨effect i s, exec_of_faultCause hcause, by simp [heffect], ?frame, fun r => ?registers⟩
  case frame => exact onlyChanges_mono (by simp [hparts]) (effect_onlyChanges i s)
  case registers =>
    rw [heffect, reg_advance, State.flagThen, reg_setReg]
    by_cases hr : r = x
    · rw [if_pos hr.symm, if_pos hr, hresult]
    · rw [if_neg (Ne.symm hr), if_neg hr, reg_setFlag_toNat hf]

theorem flagByte_toNat (b : Bool) : (flagByte b).toNat = if b = true then 1 else 0 := by
  cases b <;> rfl

theorem noBorrowFlag_toNat (a b : Byte) : (noBorrowFlag a b).toNat = if b.toNat > a.toNat then 0 else 1 := by
  unfold noBorrowFlag
  split <;> rfl

/-- Bytes subtract modulo 256 (R163). -/
theorem byte_sub_toNat (a b : Byte) : (a - b).toNat = (a.toNat + 256 - b.toNat) % 256 := by
  rw [BitVec.toNat_sub]
  omega

/-- Settles O11: the carry first, and then the sum of the old values. -/
theorem addWritesTheCarryThenTheSum : Obligations.AddWritesTheCarryThenTheSum := by
  refine ⟨decodesAs_row (.addReg 0 0), fun x y s => flagThenResult_of_effect rfl rfl rfl ?flag ?sum⟩
  case flag => simp [carryFlag, flagByte_toNat]
  case sum => exact BitVec.toNat_add _ _

/-- Settles O12: the borrow's flag first, and then the difference of the registers after it. -/
theorem subWritesNoBorrowThenTheDifference : Obligations.SubWritesNoBorrowThenTheDifference := by
  refine ⟨decodesAs_row (.subReg 0 0), fun x y s f hf => ?handler⟩
  case handler =>
    have hflag : (noBorrowFlag (s.reg x) (s.reg y)).toNat = f := (noBorrowFlag_toNat _ _).trans hf.symm
    refine flagThenResult_of_effect rfl rfl rfl hflag ?_
    rw [byte_sub_toNat, reg_setFlag_toNat hflag, reg_setFlag_toNat hflag]

/-- Settles O13: the flag of the comparison first, and then the reversed difference of the registers after it. -/
theorem subReverseWritesGreaterThenTheDifference : Obligations.SubReverseWritesGreaterThenTheDifference := by
  refine ⟨decodesAs_row (.subReverse 0 0), fun x y s f hf => ?handler⟩
  case handler =>
    have hflag : (greaterFlag (s.reg x) (s.reg y)).toNat = f := by simp [greaterFlag, flagByte_toNat, hf]
    refine flagThenResult_of_effect rfl rfl rfl hflag ?_
    rw [byte_sub_toNat, reg_setFlag_toNat hflag, reg_setFlag_toNat hflag]

/-- Settles O14: bit 0 first, and then the half of the register after it. -/
theorem shiftRightWritesBitZeroThenTheHalf : Obligations.ShiftRightWritesBitZeroThenTheHalf := by
  refine ⟨decodesAs_row (.shiftRight 0 0), fun x y s f hf => ?handler⟩
  case handler =>
    have hflag : (shiftedOutLow (s.reg x)).toNat = f := (shiftedOutLow_toNat _).trans hf.symm
    refine flagThenResult_of_effect rfl rfl rfl hflag ?_
    rw [BitVec.toNat_ushiftRight, Nat.shiftRight_eq_div_pow, reg_setFlag_toNat hflag, pow_one]

/-- Settles O15: bit 7 first, and then the double of the register after it. -/
theorem shiftLeftWritesBitSevenThenTheDouble : Obligations.ShiftLeftWritesBitSevenThenTheDouble := by
  refine ⟨decodesAs_row (.shiftLeft 0 0), fun x y s f hf => ?handler⟩
  case handler =>
    have hflag : (shiftedOutHigh (s.reg x)).toNat = f := (shiftedOutHigh_toNat _).trans hf.symm
    refine flagThenResult_of_effect rfl rfl rfl hflag ?_
    rw [BitVec.toNat_shiftLeft, Nat.shiftLeft_eq, reg_setFlag_toNat hflag, pow_one]

/-- Where VF is Vx, what it holds at the end is the result (R150, R165). -/
theorem vF_of_flagThenResult {s t : State} {f result : Nat} (h : FlagThenResult s t 15 f result) :
    (t.reg 15).toNat = result := by
  rw [h 15, if_pos rfl]

/-- Where VF is not Vx, the two hold the result and the flag (R150, R165). -/
theorem regs_of_flagThenResult {s t : State} {x : RegIdx} {f result : Nat} (hx : x ≠ 15) (h : FlagThenResult s t x f result) :
    (t.reg x).toNat = result ∧ (t.reg 15).toNat = f := by
  refine ⟨?_, ?_⟩
  · rw [h x, if_pos rfl]
  · rw [h 15, if_neg hx.symm, afterFlag, if_pos rfl]

/-- Settles O16: each cell of the table is the flag and the result of its instruction, with VF among the operands. -/
theorem flagWritersWithVfAsAnOperand : Obligations.FlagWritersWithVfAsAnOperand := by
  rintro s x y v a b hx hy rfl rfl rfl
  obtain ⟨-, hadd⟩ := addWritesTheCarryThenTheSum
  obtain ⟨-, hsub⟩ := subWritesNoBorrowThenTheDifference
  obtain ⟨-, hsubReverse⟩ := subReverseWritesGreaterThenTheDifference
  obtain ⟨-, hshiftRight⟩ := shiftRightWritesBitZeroThenTheHalf
  obtain ⟨-, hshiftLeft⟩ := shiftLeftWritesBitSevenThenTheDouble
  refine ⟨?addF, ?addToX, ?addFF, ?subF, ?subFromX, ?subFF, fun z => ?shrF, ?rsubF, ?rsubToX, ?rsubFF, fun z => ?shlF⟩
  case addF =>
    obtain ⟨t, hexec, -, -, hregs⟩ := hadd 15 y s
    exact ⟨t, hexec, vF_of_flagThenResult hregs⟩
  case addToX =>
    obtain ⟨t, hexec, -, -, hregs⟩ := hadd x 15 s
    exact ⟨t, hexec, regs_of_flagThenResult hx hregs⟩
  case addFF =>
    obtain ⟨t, hexec, -, -, hregs⟩ := hadd 15 15 s
    exact ⟨t, hexec, by rw [vF_of_flagThenResult hregs, Nat.two_mul]⟩
  case subF =>
    obtain ⟨t, hexec, -, -, hregs⟩ := hsub 15 y s _ rfl
    exact ⟨t, hexec, by simpa [afterFlag, hy] using vF_of_flagThenResult hregs⟩
  case subFromX =>
    obtain ⟨t, hexec, -, -, hregs⟩ := hsub x 15 s _ rfl
    exact ⟨t, hexec, by simpa [afterFlag, hx] using regs_of_flagThenResult hx hregs⟩
  case subFF =>
    obtain ⟨t, hexec, -, -, hregs⟩ := hsub 15 15 s _ rfl
    exact ⟨t, hexec, by simpa [afterFlag] using vF_of_flagThenResult hregs⟩
  case shrF =>
    obtain ⟨t, hexec, -, -, hregs⟩ := hshiftRight 15 z s _ rfl
    refine ⟨t, hexec, ?_⟩
    rw [vF_of_flagThenResult hregs, afterFlag, if_pos rfl]
    omega
  case rsubF =>
    obtain ⟨t, hexec, -, -, hregs⟩ := hsubReverse 15 y s _ rfl
    exact ⟨t, hexec, by simpa [afterFlag, hy] using vF_of_flagThenResult hregs⟩
  case rsubToX =>
    obtain ⟨t, hexec, -, -, hregs⟩ := hsubReverse x 15 s _ rfl
    exact ⟨t, hexec, by simpa [afterFlag, hx] using regs_of_flagThenResult hx hregs⟩
  case rsubFF =>
    obtain ⟨t, hexec, -, -, hregs⟩ := hsubReverse 15 15 s _ rfl
    exact ⟨t, hexec, by simpa [afterFlag] using vF_of_flagThenResult hregs⟩
  case shlF =>
    obtain ⟨t, hexec, -, -, hregs⟩ := hshiftLeft 15 z s _ rfl
    refine ⟨t, hexec, ?_⟩
    rw [vF_of_flagThenResult hregs, afterFlag, if_pos rfl]
    omega

end Sys2Proof.Proofs

/-! SUPPORT. The draw, the index register and the timers (spec 43_alu.md section 5, 44_index_memory.md, 46_keys_timers.md). -/

namespace Sys2Proof.Proofs

open Sys2Proof.Machine Sys2Proof.Claims

/-- A masked byte has no bit outside its mask (R162). -/
theorem and_and_not_mask (mask b : Byte) : mask &&& b &&& ~~~mask = 0 := by
  ext i hi
  simp only [BitVec.getElem_and, BitVec.getElem_not]
  cases mask[i] <;> simp

/-- Settles O17: the handler is one register write of the mask and the drawn byte, and one more draw. -/
theorem randomAndMasksAFreshDraw : Obligations.RandomAndMasksAFreshDraw := by
  refine ⟨decodesAs_row (.randomAnd 0 0), fun x nn s => ?handler⟩
  case handler =>
    have hx : (effect (.randomAnd x nn) s).reg x = nn &&& Config.randomByte s.draws := by simp [effect]
    have hmask : (effect (.randomAnd x nn) s).reg x &&& ~~~nn = 0 := by rw [hx, and_and_not_mask]
    exact ⟨_, exec_of_faultCause rfl, setReg_advance_setsRegister s x _, hmask, rfl, rfl,
      onlyChanges_mono (by simp [mayChange]) (effect_onlyChanges (.randomAnd x nn) s)⟩

/-- A register keeps its value in a word (R82). -/
theorem zextReg_toNat (b : Byte) : (zextReg b).toNat = b.toNat :=
  BitVec.toNat_setWidth_of_le (by decide)

/-- A handler that writes I and advances, and its frame (R170). -/
theorem setsIndex_of_effect {i : Instr} {s : State} {a : Word} {result : Nat} (hcause : faultCause i s = none)
    (heffect : effect i s = (s.setIdx a).advance) (hresult : a.toNat = result) :
    ∃ t, exec i s = .next t ∧ t.idx.toNat = result ∧ t.pc = s.pc + 2 ∧ OnlyChanges [.idx, .pc] s t := by
  refine ⟨_, exec_of_faultCause hcause, ?_⟩
  rw [heffect]
  exact ⟨hresult, rfl, setIdx_advance_onlyChanges_idx_pc s a⟩

/-- Settles O19: the sum of two words is theirs modulo 65536. -/
theorem addToIndexWrapsAtSixteenBits : Obligations.AddToIndexWrapsAtSixteenBits := by
  refine ⟨decodesAs_row (.addToIndex 0), fun x s => setsIndex_of_effect rfl rfl ?_⟩
  rw [BitVec.toNat_add, zextReg_toNat]

/-- The constraints of R6 as propositions. -/
theorem params_wf_iff {p : Params} : p.wf = true ↔
    (∀ d, p.stackDepth = some d → 1 ≤ d) ∧ p.fontBase + 80 ≤ 0x200 ∧ p.fontData.length = 80 := by
  unfold Params.wf
  split
  · next h => simp [h, Config.fontSize, Config.progBase]
  · next d h => simp [h, Config.fontSize, Config.progBase, and_assoc]

/-- Settles O20: FONT_BASE and five rows of any digit sum to less than 65536. -/
theorem fontAddressPointsAtTheGlyph : Obligations.FontAddressPointsAtTheGlyph := by
  refine ⟨decodesAs_row (.fontAddress 0), fun x s hwf => setsIndex_of_effect rfl rfl ?_⟩
  obtain ⟨-, hfont, -⟩ := params_wf_iff.mp hwf
  rw [glyphAddress, BitVec.toNat_ofNat]
  omega

/-- Settles O26: the handler replaces the framebuffer by the blank one and advances. -/
theorem clearScreenZeroesEveryCell : Obligations.ClearScreenZeroesEveryCell :=
  ⟨decodesAs_row .clearScreen, fun s => ⟨_, exec_of_faultCause rfl, fun r c _ _ => cell_blank r c, rfl,
    onlyChanges_mono (by simp [mayChange]) (effect_onlyChanges .clearScreen s)⟩⟩

/-- Settles O32: each handler writes its timer and advances, and the Step's decrement comes after it. -/
theorem setTimersWriteTheTimerAndTheStepDecrements : Obligations.SetTimersWriteTheTimerAndTheStepDecrements := by
  refine ⟨decodesAs_row (.setDelay 0), decodesAs_row (.setSound 0), fun x s => ⟨?delay, ?sound⟩,
    fun x s => ⟨fun hf => ?delayStep, fun hf => ?soundStep⟩⟩
  case delay =>
    exact ⟨_, exec_of_faultCause rfl, rfl, rfl, onlyChanges_mono (by simp [mayChange]) (effect_onlyChanges (.setDelay x) s)⟩
  case sound =>
    exact ⟨_, exec_of_faultCause rfl, rfl, rfl, onlyChanges_mono (by simp [mayChange]) (effect_onlyChanges (.setSound x) s)⟩
  case delayStep => exact ⟨_, step_of_effect hf rfl, countDown_toNat (s.reg x)⟩
  case soundStep => exact ⟨_, step_of_effect hf rfl, countDown_toNat (s.reg x)⟩

end Sys2Proof.Proofs

/-! SUPPORT. The status of a Step, and the Steps that run no instruction to its end (spec 40_step_cycle.md R110 to R116,
60_exceptions.md R241). -/

namespace Sys2Proof.Proofs

open Sys2Proof.Machine Sys2Proof.Claims

/-- `await-key` waits where no key is pressed (R203). -/
theorem waitsForAKey_iff {i : Instr} {s : State} : WaitsForAKey i s ↔ (∃ x, i = .awaitKey x) ∧ s.firstKey = none := by
  rw [WaitsForAKey, firstKey_eq_none]

/-- The status of a Step whose instruction completes: WAITING_KEY where it waits for a key, OK in every other case (R116). -/
theorem stepStatus_of_completes {s u : State} {i : Instr} (hf : Fetches s i) (hu : exec i s = .next u) :
    (WaitsForAKey i s → stepStatus s = .waitingKey) ∧ (¬ WaitsForAKey i s → stepStatus s = .ok) := by
  rw [stepStatus_of_exec (fetchLegal_iff.mpr hf.1) hf.2 hu, handlerStatus_eq, waitsForAKey_iff]
  exact ⟨fun h => if_pos h, fun h => if_neg h⟩

/-- The status of a Step that faults is its cause (R117). -/
theorem stepStatus_of_fault {s : State} {f : Fault} (h : step s = .fault f) : stepStatus s = .fault f := by
  rw [stepStatus, h]

/-- The status of a Step over an unknown opcode presents the word (R115, D13). -/
theorem stepStatus_of_unknown {s t : State} (h : step s = .next t)
    (hd : decodeWord s.fetchWord = .error (.unknownOpcode s.fetchWord)) : stepStatus s = .unknownOpcode s.fetchWord := by
  rw [stepStatus, h, hd]

/-- Settles O30: the handler stores the first key found or leaves the state as it was, and the Step's status tells the two
apart. -/
theorem awaitKeyStoresTheLeastKeyOrWaits : Obligations.AwaitKeyStoresTheLeastKeyOrWaits := by
  refine ⟨decodesAs_row (.awaitKey 0), fun x s k hk hdown hleast => ?pressed, fun x s hnone => ?waiting⟩
  case pressed =>
    have hkey : s.firstKey = some k := firstKey_eq_some.mpr ⟨hk, hdown, hleast⟩
    have hexec : exec (.awaitKey x) s = .next (s.setReg x (BitVec.ofNat 8 k)).advance :=
      execAwaitKey_eq_next.mpr (.inl ⟨k, hkey, rfl⟩)
    have hbyte : (BitVec.ofNat 8 k).toNat = k := Nat.mod_eq_of_lt (by omega)
    have hsets := setReg_advance_setsRegister s x (BitVec.ofNat 8 k)
    rw [hbyte] at hsets
    refine ⟨_, hexec, hsets, rfl, setReg_advance_onlyChanges_regs_pc s x _, fun hf => ?_⟩
    refine (stepStatus_of_completes hf hexec).2 fun hwaits => ?_
    rw [waitsForAKey_iff, hkey] at hwaits
    cases hwaits.2
  case waiting =>
    have hexec : exec (.awaitKey x) s = .next s := execAwaitKey_eq_next.mpr (.inr ⟨firstKey_eq_none.mpr hnone, rfl⟩)
    refine ⟨hexec, fun hf => ⟨s.tick, ?_, rfl, countDown_toNat s.dt, countDown_toNat s.st, tick_onlyChanges_dt_st s⟩⟩
    have hstatus : stepStatus s = .waitingKey := (stepStatus_of_completes hf hexec).1 ⟨⟨x, rfl⟩, hnone⟩
    simp only [hostOp, stepState, step_of_fetches_of_exec hf hexec, hstatus]

/-- Two bytes that decode to an instruction and leave none over are its word (R80, R89). -/
theorem decodeWord_of_decodeBytes {hi lo : Byte} {i : Instr} (h : decodeBytes [hi, lo] = .ok (i, [])) :
    decodeWord (wordOfBytes hi lo) = .ok i := by
  rw [decodeBytes] at h
  split at h
  · next j hj =>
    cases h
    exact hj
  · cases h

/-- Settles O35: the Step is the handler and one decrement of each timer, and its status is the handler's. -/
theorem aStepRunsTheDecodedInstruction : Obligations.AStepRunsTheDecodedInstruction := by
  intro s i hpc hbytes
  have hf : Fetches s i := ⟨hpc, decodeWord_of_decodeBytes hbytes⟩
  refine ⟨fun u hu => ⟨?completes, stepStatus_of_completes hf hu⟩, fun f hfault => ?faults, exec_ne_refused i s⟩
  case completes =>
    exact ⟨_, step_of_fetches_of_exec hf hu, countDown_toNat u.dt, countDown_toNat u.st, tick_onlyChanges_dt_st u⟩
  case faults =>
    have hstep : step s = .fault f := by rw [step_of_fetches hf, hfault, finishStep]
    exact ⟨hstep, stepStatus_of_fault hstep⟩

theorem advance_tick_onlyChanges (s : State) : OnlyChanges [.pc, .dt, .st] s s.advance.tick := by
  simp [OnlyChanges]

/-- Settles O37: a word that decodes to nothing is unknown, and its Step is an advance and the timers. -/
theorem anUnknownOpcodeIsAReportedNoOp : Obligations.AnUnknownOpcodeIsAReportedNoOp := by
  intro s hpc hunknown
  have hd : decodeWord s.fetchWord = .error (.unknownOpcode s.fetchWord) :=
    (decodeWord_unknown_iff _).mpr fun ⟨i, hi⟩ => hunknown i hi
  have hstep : step s = .next s.advance.tick := step_of_unknown (fetchLegal_iff.mpr hpc) hd
  refine ⟨_, ?_, hstep, rfl, countDown_toNat s.dt, countDown_toNat s.st, advance_tick_onlyChanges s⟩
  simp only [hostOp, stepState, hstep, stepStatus_of_unknown hstep hd]

/-- The codes of the statuses that are no cause are below 8, and those of the causes from 8 to 12 (R241). -/
theorem code_testBit_three {st : StepStatus} {n : Nat} (h : st.code = some n) : n.testBit 3 = true ↔ ∃ f, st = .fault f := by
  cases st with
  | ok | unknownOpcode | waitingKey =>
    cases h
    exact ⟨fun hbit => absurd hbit (by decide), fun ⟨_, hf⟩ => nomatch hf⟩
  | refused r => cases h
  | fault f =>
    cases f
    all_goals
      cases h
      exact ⟨fun _ => ⟨_, rfl⟩, fun _ => by decide⟩

/-- Every status but a refusal has a code (R241). -/
theorem exists_code {st : StepStatus} (h : ∀ r, st ≠ .refused r) : ∃ n, st.code = some n := by
  cases st with
  | refused r => exact absurd rfl (h r)
  | fault f => cases f <;> exact ⟨_, rfl⟩
  | ok | unknownOpcode | waitingKey => exact ⟨_, rfl⟩

/-- What the status of a Step can be: its cause where it commits nothing, and where it commits one of the three others (R116,
R117). -/
theorem stepStatus_cases (s : State) :
    (∃ f, step s = .fault f ∧ stepStatus s = .fault f) ∨
    (∃ t, step s = .next t ∧
      (stepStatus s = .ok ∨ stepStatus s = .waitingKey ∨ stepStatus s = .unknownOpcode s.fetchWord)) := by
  obtain ⟨-, hs⟩ | ⟨i, hf, hs⟩ | ⟨-, hd, hs⟩ := step_trichotomy s
  · exact .inl ⟨_, hs, stepStatus_of_fault hs⟩
  · cases hcause : faultCause i s with
    | some f =>
      have hstep : step s = .fault f := by rw [hs, exec_eq_fault_iff.mpr hcause, finishStep]
      exact .inl ⟨f, hstep, stepStatus_of_fault hstep⟩
    | none =>
      obtain ⟨hwaiting, hok⟩ := stepStatus_of_completes hf (exec_of_faultCause hcause)
      refine .inr ⟨_, step_of_effect hf hcause, ?_⟩
      by_cases hw : WaitsForAKey i s
      · exact .inr (.inl (hwaiting hw))
      · exact .inl (hok hw)
  · exact .inr ⟨_, hs, .inr (.inr (stepStatus_of_unknown hs hd))⟩

/-- A Step's status is a cause exactly where the Step commits nothing (R116, R117). -/
theorem stepStatus_fault_iff (s : State) : (∃ f, stepStatus s = .fault f) ↔ ∀ t, step s ≠ .next t := by
  obtain ⟨f, hstep, hst⟩ | ⟨t, hstep, hst | hst | hst⟩ := stepStatus_cases s
  all_goals simp [hstep, hst]

/-- No Step's status is a refusal. -/
theorem stepStatus_ne_refused (s : State) (r : Refusal) : stepStatus s ≠ .refused r := by
  obtain ⟨f, -, hst⟩ | ⟨t, -, hst | hst | hst⟩ := stepStatus_cases s
  all_goals simp [hst]

/-- Settles O58: the codes are read off the table, and bit 3 marks the causes. -/
theorem theStatusesHaveTheCodesOfTheTable : Obligations.TheStatusesHaveTheCodesOfTheTable := by
  refine ⟨rfl, fun _ => rfl, rfl, rfl, rfl, rfl, rfl, rfl, fun _ _ => code_testBit_three, fun s => ?_⟩
  obtain ⟨n, hn⟩ := exists_code (stepStatus_ne_refused s)
  exact ⟨n, hn, (code_testBit_three hn).trans (stepStatus_fault_iff s)⟩

end Sys2Proof.Proofs

/-! SUPPORT. Memory as data (spec 10_state.md R25, R37): the canonical form determines the list, what memory holds after reset and
after a Load, and which bytes a fetch sees after a store. -/

namespace Sys2Proof.Proofs

open Sys2Proof.Machine Sys2Proof.Claims

/-! ### The canonical form determines the list -/

/-- A listed cell shows in what memory reads as, so a memory that reads the same cannot list only greater addresses (R25). -/
theorem not_all_greater_of_reads_same {p : Params} {a : Nat} {b : Byte} {m n : Memory} (hm : Memory.wf p ((a, b) :: m) = true)
    (h : ∀ c, c < 4096 → memRead p ((a, b) :: m) c = memRead p n c) : ¬ ∀ c ∈ n, a < c.1 := by
  intro hgreater
  obtain ⟨ha, hb, -, -⟩ := wf_cons.mp hm
  have hread : memRead p ((a, b) :: m) a = b := if_pos rfl
  exact hb (hread.symm.trans ((h a ha).trans (memRead_of_lt p a n hgreater)))

/-- Lists that start with the same address and read the same have the same first byte, and rests that read the same. -/
theorem rest_reads_same {p : Params} {a : Nat} {b d : Byte} {m n : Memory} (hm : Memory.wf p ((a, b) :: m) = true)
    (hn : Memory.wf p ((a, d) :: n) = true)
    (h : ∀ c, c < 4096 → memRead p ((a, b) :: m) c = memRead p ((a, d) :: n) c) :
    b = d ∧ ∀ c, c < 4096 → memRead p m c = memRead p n c := by
  obtain ⟨ha, -, hltm, -⟩ := wf_cons.mp hm
  obtain ⟨-, -, hltn, -⟩ := wf_cons.mp hn
  refine ⟨by simpa [memRead] using h a ha, fun c hc => ?_⟩
  by_cases hac : a = c
  · subst hac
    rw [memRead_of_lt p a m hltm, memRead_of_lt p a n hltn]
  · simpa [memRead, hac] using h c hc

/-- An address below the first listed one is below all of them (R25). -/
theorem all_greater_of_lt_head {p : Params} {a c : Nat} {d : Byte} {n : Memory} (hn : Memory.wf p ((c, d) :: n) = true)
    (h : a < c) : ∀ x ∈ (c, d) :: n, a < x.1 := by
  obtain ⟨-, -, hlt, -⟩ := wf_cons.mp hn
  exact List.forall_mem_cons.mpr ⟨h, fun x hx => h.trans (hlt x hx)⟩

/-- Settles O25, by induction on the lists: neither can list its first address alone, so both start with the same cell. -/
theorem memoriesThatReadTheSameAreEqual : Obligations.MemoriesThatReadTheSameAreEqual := by
  intro p m
  induction m with
  | nil =>
    rintro (_ | ⟨⟨c, d⟩, n⟩) - hn h
    · rfl
    · exact absurd (by simp) (not_all_greater_of_reads_same hn fun x hx => (h x hx).symm)
  | cons cell m ih =>
    obtain ⟨a, b⟩ := cell
    rintro (_ | ⟨⟨c, d⟩, n⟩) hm hn h
    · exact absurd (by simp) (not_all_greater_of_reads_same hm h)
    · obtain ⟨-, -, -, hwfm⟩ := wf_cons.mp hm
      obtain ⟨-, -, -, hwfn⟩ := wf_cons.mp hn
      obtain hac | rfl | hca := Nat.lt_trichotomy a c
      · exact absurd (all_greater_of_lt_head hn hac) (not_all_greater_of_reads_same hm h)
      · obtain ⟨rfl, hrest⟩ := rest_reads_same hm hn h
        rw [ih n hwfm hwfn hrest]
      · exact absurd (all_greater_of_lt_head hm hca) (not_all_greater_of_reads_same hn fun x hx => (h x hx).symm)

/-! ### Stores and the fetches after them -/

/-- A byte of memory is seen by the fetches from its address and from the one before (R51, R62). -/
theorem seenByFetches_of_readByte {t : State} {a : Nat} {b : Byte} (h : t.readByte a = b) : SeenByFetches t a b := by
  refine fun u hu => ⟨fun hpc => ?high, fun hpc => ?low⟩
  case high => rw [State.fetchWord, highByte_wordOfBytes, hpc, hu, h]
  case low => rw [State.fetchWord, lowByte_wordOfBytes, hpc, hu, h]

/-- What a handler that stores bytes at I has done once it completes: each byte is at its address, and pc is two further (R170). -/
theorem stored_of_exec {i : Instr} {s t : State} {n : Nat} {bs : List Byte}
    (hexec : exec i s = checkedAccess s.base (n + 1) (s.writeBytes s.base bs).advance) (hlen : bs.length = n + 1)
    (hm : Memory.wf s.params s.mem = true) (ht : exec i s = .next t) :
    (∀ k b, bs[k]? = some b → t.readByte (s.base + k) = b) ∧ t.pc = s.pc + 2 := by
  obtain ⟨hin, -⟩ := checkedAccess_succ_eq_next.mp (hexec ▸ ht)
  obtain ⟨u, hu, hstored, -, hpc, -⟩ := stores_of_exec hexec hlen hin hm
  obtain rfl : u = t := by simpa [hu] using ht
  exact ⟨hstored, hpc⟩

/-- Settles O24: a completed store has put each byte at its address, and a fetch reads its two bytes there. -/
theorem aStoreIsSeenByTheNextFetch : Obligations.AStoreIsSeenByTheNextFetch := by
  refine ⟨fun x s t hm hexec => ?dump, fun x s t hm hexec => ?bcd⟩
  case dump =>
    obtain ⟨hstored, hpc⟩ := stored_of_exec (exec_registerDump x s) (regsUpTo_length s x) hm hexec
    have hreg (k : RegIdx) (hk : k ≤ x) : t.readByte (s.base + k.val) = s.reg k := hstored k.val _ (regsUpTo_getElem? s hk)
    refine ⟨fun k hk => seenByFetches_of_readByte (hreg k hk), fun k k' hk' hsucc hat => ?_⟩
    have hle : k'.val ≤ x.val := hk'
    have hk : k ≤ x := show k.val ≤ x.val by omega
    have hnext : s.base + k.val + 1 = s.base + k'.val := by omega
    rw [State.fetchWord, hpc, hat, hreg k hk, hnext, hreg k' hk', wordOfBytes]
  case bcd =>
    obtain ⟨hstored, -⟩ := stored_of_exec (exec_bcdStore x s) rfl hm hexec
    exact ⟨seenByFetches_of_readByte (hstored 0 _ rfl), seenByFetches_of_readByte (hstored 1 _ rfl),
      seenByFetches_of_readByte (hstored 2 _ rfl)⟩

/-- Writing bytes changes memory and nothing else (R10). -/
theorem writeBytes_onlyChanges_mem (s : State) (a : Nat) (bs : List Byte) : OnlyChanges [.mem] s (s.writeBytes a bs) := by
  simp [OnlyChanges]

/-- Where pc can be fetched from, `withFetchWord` stores the two bytes of the word there. -/
theorem withFetchWord_of_le {s : State} (w : Nat) (h : s.pc.toNat ≤ 4094) :
    s.withFetchWord 16 w = s.writeBytes s.pc.toNat (bytesOfWord (tableWord 16 w)) :=
  if_pos (fetchLegal_iff.mpr h)

/-- What is read from a table word is what the word decodes to (R89). -/
theorem decodeWord_of_decodeTableWord {w : Nat} {i : Instr} (h : decodeTableWord 16 w = some i) :
    decodeWord (tableWord 16 w) = .ok i := by
  simp only [decodeTableWord, bytesOfWord, decodeBytes, wordOfBytes_bytesOfWord] at h
  cases hd : decodeWord (tableWord 16 w) with
  | ok j => simpa [hd] using h
  | error e => simp [hd] at h

/-- Settles O36: the two bytes stored at pc are the word fetched there, and the store writes no other byte. -/
theorem theStoredWordIsTheOneFetched : Obligations.TheStoredWordIsTheOneFetched := by
  intro s w hpc hm hw
  have hfetch : (s.writeBytes s.pc.toNat (bytesOfWord (tableWord 16 w))).fetchWord = tableWord 16 w := by
    rw [bytesOfWord, fetchWord_writeBytes_pc _ _ hpc hm, wordOfBytes_bytesOfWord]
  have hfits : s.pc.toNat + (bytesOfWord (tableWord 16 w)).length ≤ 4096 := by
    simp only [bytesOfWord, List.length_cons, List.length_nil]
    omega
  rw [withFetchWord_of_le w hpc]
  refine ⟨?word, fun i hi => ⟨hpc, ?decodes⟩, fun a hlo hhi => ?others, writeBytes_onlyChanges_mem s _ _⟩
  case word =>
    rw [hfetch, tableWord, BitVec.toNat_ofNat]
    omega
  case decodes => rw [hfetch, decodeWord_of_decodeTableWord hi]
  case others =>
    refine readByte_writeBytes_outside hfits hm ?_
    simp only [bytesOfWord, List.length_cons, List.length_nil]
    omega

end Sys2Proof.Proofs

/-! SUPPORT. The host's reset, Load and reads (spec 47_host_operations.md, 70_reset_and_hazards.md). -/

namespace Sys2Proof.Proofs

open Sys2Proof.Machine Sys2Proof.Claims

/-- After reset every address reads as its reset contents (R37). -/
theorem readByte_resetWith (p : Params) (a : Nat) : (State.resetWith p).readByte a = resetByte p a := rfl

/-- The font's bytes are in place after reset (R55, R57). -/
theorem resetByte_font {p : Params} {k : Nat} (hlen : p.fontData.length = 80) (hk : k < 80) :
    some (resetByte p (p.fontBase + k)) = p.fontData[k]? := by
  have hin : p.fontBase ≤ p.fontBase + k ∧ p.fontBase + k < p.fontBase + 80 := by omega
  have hlt : k < p.fontData.length := by omega
  rw [resetByte, if_pos hin, Nat.add_sub_cancel_left, List.getD_eq_getElem _ _ hlt, List.getElem?_eq_getElem hlt]

/-- Outside the font the reset contents are zero (R37). -/
theorem resetByte_outside {p : Params} {a : Nat} (h : a < p.fontBase ∨ p.fontBase + 80 ≤ a) : resetByte p a = 0 :=
  if_neg (by omega)

/-- Settles O1: the reset state lists no memory, so that each byte is its reset contents, and every other part is the table's
value. -/
theorem resetLeavesTheSpecifiedState : Obligations.ResetLeavesTheSpecifiedState := by
  refine ⟨fun p hp => ?state, ⟨by decide, rfl⟩, fun _ => rfl⟩
  case state =>
    obtain ⟨-, -, hlen⟩ := params_wf_iff.mp hp
    refine ⟨fun k hk => ?_, fun a ha => ?_, fun r => ?_, rfl, rfl, rfl, rfl, rfl, fun r c _ _ => cell_blank r c, rfl,
      fun k hk => ?_⟩
    · rw [readByte_resetWith, resetByte_font hlen hk]
    · rw [readByte_resetWith, resetByte_outside ha]
    · simp [State.reg, State.resetWith]
    · simp [State.keyDown, State.resetWith, Vector.getD, hk]

/-- A Load of an image that does not fit changes nothing (R221). -/
theorem hostOp_load_of_gt {bytes : List Byte} {s : State} (h : 3584 < bytes.length) :
    hostOp (.load bytes) s = (s, .loadOverflow) :=
  (if_pos h : hostLoad bytes s = _)

/-- Settles O54: an image that fits is one store at 0x200, which ends inside memory, and a longer one is refused before any
write. -/
theorem loadIsAllOrNothing : Obligations.LoadIsAllOrNothing := by
  refine fun bytes s => ⟨fun hle hm => ?fits, hostOp_load_of_gt⟩
  case fits =>
    have hin : 0x200 + bytes.length ≤ 4096 := by omega
    refine ⟨_, hostOp_load_of_le hle, fun k hk => ?_, fun a ha => readByte_writeBytes_outside hin hm ha,
      writeBytes_onlyChanges_mem s _ _⟩
    have hbyte : bytes[k]? = some bytes[k] := List.getElem?_eq_getElem hk
    rw [hbyte, readByte_writeBytes_of_getElem? hin hm hbyte]

/-- The element at `n * r + c` of lists of `n` elements put one after the other is element `c` of the r-th. -/
theorem getElem?_flatMap_of_length {α β : Type} {f : α → List β} {n c : Nat} (hc : c < n) :
    ∀ {l : List α} (r : Nat), (∀ a ∈ l, (f a).length = n) → (l.flatMap f)[n * r + c]? = l[r]?.bind fun a => (f a)[c]?
  | [], _, _ => by simp
  | a :: l, 0, h => by
    have ha : c < (f a).length := by rw [h a (by simp)]; exact hc
    simp [List.getElem?_append_left ha]
  | a :: l, r + 1, h => by
    have ha : (f a).length = n := h a (by simp)
    have hskip : n * (r + 1) + c = (f a).length + (n * r + c) := by rw [ha]; ring
    rw [List.flatMap_cons, hskip, List.getElem?_append_right (Nat.le_add_right ..), Nat.add_sub_cancel_left,
      getElem?_flatMap_of_length hc r fun x hx => h x (by simp [hx]), List.getElem?_cons_succ]

theorem cells_length (fb : Framebuffer) : (Framebuffer.cells fb).length = 2048 := by
  simp [Framebuffer.cells, List.length_flatMap]

/-- The cells are in row-major order (R30, R224, D16). -/
theorem cells_getElem? (fb : Framebuffer) {r c : Nat} (hr : r < 32) (hc : c < 64) :
    (Framebuffer.cells fb)[64 * r + c]? = some (Framebuffer.cell fb r c) := by
  rw [Framebuffer.cells, getElem?_flatMap_of_length hc r fun row _ => row.length_toList]
  simp [Framebuffer.cell, hr, hc]

/-- Settles O57: each read answers a part of the state as it is, and hands the state back. -/
theorem theReadsReturnTheStateAndChangeNothing : Obligations.TheReadsReturnTheStateAndChangeNothing :=
  fun s => ⟨⟨_, rfl, cells_length s.fb, fun _ _ => cells_getElem? s.fb⟩, ⟨_, rfl, fun _ => rfl⟩, rfl, rfl⟩

end Sys2Proof.Proofs

/-! SUPPORT. The shape of the proofs about `draw-sprite` (spec 45_display.md): its canvas, cell by cell, in terms of the sprite bit that
lands on each. -/

namespace Sys2Proof.Proofs

open Sys2Proof.Machine Sys2Proof.Claims

/-- The k-th of the bytes read from the state (R53). -/
theorem readBytes_getD (s : State) {a n k : Nat} (h : k < n) : (s.readBytes a n).getD k 0 = s.readByte (a + k) := by
  rw [List.getD_eq_getElem?_getD, State.readBytes, memReadBytes_getElem?, if_pos h]
  rfl

/-- On the grid, the bit of the sprite's bytes that lands on a cell is the statement's sprite bit (R192). -/
theorem spriteCell_eq_spriteBit (s : State) (x y n : Fin 16) {r c : Nat} (hr : r < 32) (hc : c < 64) :
    spriteCell (s.readBytes s.base n.val) (originRow (s.reg y)) (originCol (s.reg x)) r c = spriteBit s x y n r c := by
  have hlen : (s.readBytes s.base n.val).length = n.val := memReadBytes_length ..
  by_cases hrow : originRow (s.reg y) ≤ r ∧ r < originRow (s.reg y) + n.val
  · have hk : r - originRow (s.reg y) < n.val := by omega
    rw [spriteCell, spriteBit, readBytes_getD s hk, hlen]
    simp [hr, hc, originRow, originCol, State.base]
  · have hrow' : ¬ ((s.reg y).toNat % 32 ≤ r ∧ r < (s.reg y).toNat % 32 + n.val) := hrow
    rw [spriteCell, spriteBit, decide_eq_false (by rw [hlen]; tauto), decide_eq_false (by tauto), Bool.false_and, Bool.false_and]

/-- No sprite bit lands outside the grid: the sprite is clipped (R193 (a), D9). -/
theorem grid_of_spriteCell {bs : List Byte} {row col r c : Nat} (h : spriteCell bs row col r c = true) : r < 32 ∧ c < 64 := by
  simp only [spriteCell, Bool.and_eq_true, decide_eq_true_eq] at h
  obtain ⟨⟨-, -, -, -, hr, hc⟩, -⟩ := h
  exact ⟨hr, hc⟩

/-- Each cell of the canvas is the exclusive-or of the cell before and the sprite bit that lands on it (R194 (a)). -/
theorem spriteCanvas_cell (s : State) (x y n : Fin 16) {r c : Nat} (hr : r < 32) (hc : c < 64) :
    Framebuffer.cell (s.spriteCanvas x y n).fb r c = (Framebuffer.cell s.fb r c ^^ spriteBit s x y n r c) := by
  rw [← spriteCell_eq_spriteBit s x y n hr hc]
  exact (drawRows_spec _ _ _ _).1 r c

/-- There is a collision exactly where a sprite bit lands on a lit cell (R194 (b)). -/
theorem spriteCanvas_hit (s : State) (x y n : Fin 16) : (s.spriteCanvas x y n).hit = true ↔
    ∃ r c, r < 32 ∧ c < 64 ∧ Framebuffer.cell s.fb r c = true ∧ spriteBit s x y n r c = true := by
  refine (drawRows_spec _ _ _ _).2.trans ⟨?_, ?_⟩
  · rintro (h | ⟨r, c, hlit, hbit⟩)
    · cases h
    · obtain ⟨hr, hc⟩ := grid_of_spriteCell hbit
      exact ⟨r, c, hr, hc, hlit, (spriteCell_eq_spriteBit s x y n hr hc).symm.trans hbit⟩
  · rintro ⟨r, c, hr, hc, hlit, hbit⟩
    exact .inr ⟨r, c, hlit, (spriteCell_eq_spriteBit s x y n hr hc).trans hbit⟩

/-- VF after a draw is the collision (R192, D11). -/
theorem reg_vF_drawSprite (s : State) (x y n : Fin 16) :
    (effect (.drawSprite x y n) s).reg 15 = flagByte (s.spriteCanvas x y n).hit := by
  simp [effect]

theorem flagByte_eq_one_iff (b : Bool) : flagByte b = 1 ↔ b = true := by
  cases b <;> simp [flagByte]

/-- Settles O27: the table's cause is the checked range, and the canvas gives the cells and the collision. -/
theorem drawSpriteXorsTheSpriteIntoTheGrid : Obligations.DrawSpriteXorsTheSpriteIntoTheGrid := by
  refine ⟨decodesAs_row (.drawSprite 0 0 0), fun x y n s => ⟨fun hin => ?draws, fun hn hout => ?faults⟩⟩
  case draws =>
    have hcause : faultCause (.drawSprite x y n) s = none := if_neg (by omega)
    refine ⟨_, exec_of_faultCause hcause, fun r c hr hc => spriteCanvas_cell s x y n hr hc, fun hmet => ?collision,
      fun hnone => ?noCollision, fun r hr => effect_reg s not_false (fun h => absurd h hr), rfl, rfl,
      onlyChanges_mono (by simp [mayChange]) (effect_onlyChanges (.drawSprite x y n) s)⟩
    case collision =>
      rw [reg_vF_drawSprite, (spriteCanvas_hit s x y n).mpr hmet]
      rfl
    case noCollision =>
      have hhit : (s.spriteCanvas x y n).hit = false := by
        rw [Bool.eq_false_iff, ne_eq, spriteCanvas_hit]
        rintro ⟨r, c, hr, hc, hlit, hbit⟩
        rw [hnone r c hr hc hlit] at hbit
        cases hbit
      rw [reg_vF_drawSprite, hhit]
      rfl
  case faults => exact exec_eq_fault_iff.mpr (if_pos ⟨hn, hout⟩)

/-- Memory, I and the origin decide where each sprite bit lands (R192). -/
theorem spriteBit_congr {s t : State} {x y : Fin 16} (n : Fin 16) (hidx : t.idx = s.idx)
    (hmem : ∀ a, t.readByte a = s.readByte a) (hx : (t.reg x).toNat % 64 = (s.reg x).toNat % 64)
    (hy : (t.reg y).toNat % 32 = (s.reg y).toNat % 32) (r c : Nat) : spriteBit t x y n r c = spriteBit s x y n r c := by
  simp only [spriteBit, hidx, hmem, hx, hy]

/-- Settles O28: the second draw has the first one's sprite bits, and a bit exclusive-or'd twice is gone. -/
theorem drawingTwiceRestoresTheFramebuffer : Obligations.DrawingTwiceRestoresTheFramebuffer := by
  intro x y n s t hexec hx hy
  obtain ⟨hcause, rfl⟩ := exec_eq_next_iff.mp hexec
  generalize ht : effect (.drawSprite x y n) s = t at hx hy ⊢
  have hidx : t.idx = s.idx := by rw [← ht]; rfl
  have hbit (r c : Nat) : spriteBit t x y n r c = spriteBit s x y n r c :=
    spriteBit_congr n hidx (fun a => by rw [← ht]; rfl) hx hy r c
  have hcell {r c : Nat} (hr : r < 32) (hc : c < 64) :
      Framebuffer.cell t.fb r c = (Framebuffer.cell s.fb r c ^^ spriteBit s x y n r c) := by
    rw [← ht]
    exact spriteCanvas_cell s x y n hr hc
  have hcause' : faultCause (.drawSprite x y n) t = none := by rwa [faultCause, hidx]
  refine ⟨_, exec_of_faultCause hcause', framebuffer_ext fun r c hr hc => ?restored, ?collision⟩
  case restored =>
    refine (spriteCanvas_cell t x y n hr hc).trans ?_
    rw [hcell hr hc, hbit, Bool.xor_assoc, Bool.xor_self, Bool.xor_false]
  case collision =>
    rw [reg_vF_drawSprite, flagByte_eq_one_iff, spriteCanvas_hit]
    refine exists₂_congr fun r c => and_congr_right fun hr => and_congr_right fun hc => ?_
    rw [hbit, hcell hr hc]
    cases Framebuffer.cell s.fb r c <;> cases spriteBit s x y n r c <;> simp

end Sys2Proof.Proofs
